-- ==== Sys2Proof/Word.lean ====
section
/-! DEFINITION. The word types of the block (R14) and nothing else. -/

namespace Sys2Proof

/-- A byte: index, length, value, status, command byte, designator, payload element (R14, R26). -/
abbrev Byte := BitVec 8

/-- A bus clock frequency in hertz, 32 bits, passed on uninterpreted (R14, R24). -/
abbrev Hertz := BitVec 32

/-- A request descriptor `REQ`, 64 bits (R54). -/
abbrev Descriptor := BitVec 64

end Sys2Proof
end

