-- ==== Sys2Proof/Config.lean ====
section
/-! DEFINITION. The implementation parameters (R8, R9, R11, R16), the names of the bus format (R12, R13), and the
values the spec leaves open, each an uninterpreted constant. -/

namespace Sys2Proof

/-- A level of a digital output line (R61). -/
inductive Level where
  | low
  | high
deriving DecidableEq, Repr

/-- The bit orders the block ever asks for: one (R12, R36). -/
inductive BitOrder where
  | msbFirst
deriving DecidableEq, Repr

/-- The clock modes the block ever asks for: one (R12). -/
inductive ClockMode where
  | idleLowSampleRising
deriving DecidableEq, Repr

/-- The directions the block ever gives a digital line: one (R61). -/
inductive LineMode where
  | output
deriving DecidableEq, Repr

/-- A parameter set, not yet checked. The defaults are the spec's reference instantiation `REF` (R15), used for
printing numbers only; no meaning rests on them. -/
structure ParamSet where
  /-- `NUM_REGISTERS` (R8). -/
  numRegisters : Nat := 30
  /-- `READ_COMMAND_BASE` (R9). -/
  readBase : Byte := 0x00
  /-- `WRITE_COMMAND_BASE` (R9). -/
  writeBase : Byte := 0x20
  /-- `T_SETTLE_US`, microseconds (R11). -/
  tSettleUs : Nat := 1
deriving DecidableEq, Repr, Inhabited

/-- Both command bases leave their low `n` bits free (R9). -/
def ParamSet.lowBitsFree (p : ParamSet) (n : Nat) : Bool :=
  decide (p.readBase.toNat % 2 ^ n = 0) && decide (p.writeBase.toNat % 2 ^ n = 0)

/-- The largest `n` up to the bound for which both bases leave their low `n` bits free. -/
def ParamSet.freeBitsUpTo (p : ParamSet) : Nat → Nat
  | 0 => 0
  | n + 1 => if p.lowBitsFree (n + 1) then n + 1 else p.freeBitsUpTo n

/-- `IDX_BITS`: the number of low bits left for the index (R9). -/
def ParamSet.idxBits (p : ParamSet) : Nat := p.freeBitsUpTo 8

/-- The four conditions of a well-formed parameter set (R16). -/
def ParamSet.wellFormed (p : ParamSet) : Bool :=
  decide (p.readBase ≠ p.writeBase) && decide (1 ≤ p.idxBits) &&
    (decide (1 ≤ p.numRegisters) && decide (p.numRegisters ≤ 2 ^ p.idxBits)) && decide (0 < p.tSettleUs)

/-- A well-formed parameter set: an ill-formed one cannot be given to the machine (R16; log 1). -/
structure Params extends ParamSet where
  /-- R16 holds. -/
  wf : toParamSet.wellFormed = true := by decide
deriving DecidableEq, Repr, Inhabited

/-- The admission of a parameter set: the model refuses one that is not well-formed (R16). -/
def Params.ofSet? (p : ParamSet) : Option Params :=
  if h : p.wellFormed = true then some { toParamSet := p, wf := h } else none

/-- The reference instantiation `REF` (R15): the numbers printed in spec/95 and in the command-byte rows of
spec/opcode_table.json. PRESUMED by the spec from general knowledge (GK1, GK2); no meaning uses it (log 2). -/
def Params.ref : Params := { toParamSet := {} }

/-- The parameter set of the machine at power-on: any well-formed set, uninterpreted (R8, R9, R11; log 1).
DESIGN CHOICE: the parameters stand in the state, so every statement over states holds for every set. -/
opaque Config.params : Params

/-- The environment's replies from power-on on: any finite list of bytes, uninterpreted (R62; log 7).
DESIGN CHOICE: after its end the environment answers no further exchange (R106). -/
opaque Config.replies : List Byte

/-- `draw8()`: the value number `n` the model must not fix, uninterpreted (R68, R86, U1, U2; log 6). -/
opaque Config.draw8 : Nat → Byte

end Sys2Proof
end

