-- ==== Sys2Proof/Syntax.lean ====
section
/-! DEFINITION. The operations of the block and the two command-byte rows: one constructor for each row of
spec/opcode_table.json. -/

namespace Sys2Proof

/-- The code `OPC` of a request: the six operations (R55). -/
inductive Op where
  | init
  | rd1
  | rdn
  | cmd
  | wr1
  | wrn
deriving DecidableEq, Repr

/-- One request (six rows of format `REQ64`, R54, R55), or one command byte on the bus (two rows of format
`CMDBYTE8`, R51). An argument `b` is the descriptor's field `B` where the operation ignores it: it has no effect,
but accept copies it into the latches `LEN` and `DAT` all the same (R54; log 13). -/
inductive Instr where
  /-- `INIT clk, cs`: construct (R81). -/
  | init (clk : Hertz) (cs b : Byte)
  /-- `RD1 idx`: read a single byte (R76). -/
  | rd1 (idx b : Byte)
  /-- `RDN idx, len`: read multiple bytes into `RXBUF` (R77). -/
  | rdn (idx len : Byte)
  /-- `CMD code`: send a bare command (R78). -/
  | cmd (code b : Byte)
  /-- `WR1 idx, val`: write a single byte (R79). -/
  | wr1 (idx val : Byte)
  /-- `WRN idx, len`: write multiple bytes from `TXBUF` (R80). -/
  | wrn (idx len : Byte)
  /-- `WIRE.R_REG`: the first byte of a read frame, `READ_COMMAND_BASE | idx` (R51; log 14). -/
  | wireRReg (idx : Byte)
  /-- `WIRE.W_REG`: the first byte of a write frame, `WRITE_COMMAND_BASE | idx` (R51; log 14). -/
  | wireWReg (idx : Byte)
deriving DecidableEq, Repr

end Sys2Proof
end

