-- ==== Sys2Proof/Machine/State.lean ====
section
/-! DEFINITION. Every piece of state the spec gives the block, its caller and its environment, as plain data; the
state at power-on; the reasons a step can stop. -/

namespace Sys2Proof.Machine

/-- `PHASE`: the block's next step; it takes the place of a program counter (R21). -/
inductive Phase where
  /-- Not constructed; waits for `INIT`. -/
  | uninit
  /-- Construction: make the chip-select line an output. -/
  | c1
  /-- Construction: drive the line inactive. -/
  | c2
  /-- Construction: prepare the bus driver. -/
  | c3
  /-- Constructed, no operation in flight; waits for a request. -/
  | idle
  /-- Evaluate the validity gate and build the command byte. -/
  | gate
  /-- Begin: acquire and configure the bus. -/
  | b1
  /-- Begin: assert chip-select. -/
  | b2
  /-- Begin: settle delay. -/
  | b3
  /-- Exchange the command byte. -/
  | x0
  /-- Exchange payload byte number `CNT`. -/
  | xp
  /-- End: deassert chip-select. -/
  | e1
  /-- End: settle delay. -/
  | e2
  /-- End: release the bus. -/
  | e3
  /-- Hand the response to the caller. -/
  | respond
deriving DecidableEq, Repr

/-- `CS_LEVEL`: the level the block last drove, or unspecified while it has driven none (R27; log 5). -/
inductive CsLevel where
  | low
  | high
  | unspecified
deriving DecidableEq, Repr

/-- One call of a downstream primitive, as `TRACE` records it (R30, R61). -/
inductive Event where
  | csMode (sel : Byte) (mode : LineMode)
  | csWrite (sel : Byte) (level : Level)
  | busInit
  | busBegin (clk : Hertz) (order : BitOrder) (mode : ClockMode)
  | xfer (tx rx : Byte)
  | busEnd
  /-- A wait of at least `t` microseconds (R63). -/
  | delay (t : Nat)
deriving DecidableEq, Repr

/-- A response record (R56): no form has an error field. -/
inductive Response where
  /-- `INIT`, `CMD`, `WR1`, `WRN`. -/
  | completion
  /-- `RDN`; its data is in `RXBUF`. -/
  | status (status : Byte)
  /-- `RD1`. -/
  | statusValue (status value : Byte)
deriving DecidableEq, Repr

/-- The two payload buffers the caller lends to the block (R33). -/
inductive Buffer where
  | tx
  | rx
deriving DecidableEq, Repr

/-- A move of the caller, possible only while no operation is in flight (R48, R59, R60, R67; log 8). A
refused request stays the caller's next move, since it waits for the response (log 9). -/
inductive CallerMove where
  /-- Store a byte into one of its own buffers (R33, R59). -/
  | store (buffer : Buffer) (offset value : Byte)
  /-- Issue a request (R54). -/
  | request (req : Descriptor)
deriving DecidableEq, Repr

/-- The bytes of a buffer: its nonzero bytes, offsets strictly rising (log 4). -/
abbrev Memory := List Host.Cell

/-- The whole machine. -/
structure State where
  /-- The parameter set the machine is built with (R8, R9, R11, R25; log 1): no register, never written. -/
  par : Params
  /-- `CFG_CLK`: bus clock frequency in hertz, immutable once constructed (R24). -/
  cfgClk : Hertz
  /-- `CFG_CS`: designator of the chip-select line, immutable once constructed (R24). -/
  cfgCs : Byte
  /-- `PHASE` (R21). -/
  phase : Phase
  /-- `OP`: which operation was accepted (R18). -/
  op : Op
  /-- `IDX`: register index (R18). -/
  idx : Byte
  /-- `LEN`: length of a multi-byte operation (R18). -/
  len : Byte
  /-- `DAT`: the value of `WR1` or the code of `CMD` (R18). -/
  dat : Byte
  /-- `CMDB`: command byte of the transaction in flight (R19). -/
  cmdb : Byte
  /-- `CNT`: payload bytes already exchanged (R19). -/
  cnt : Byte
  /-- `STATUS`: result latch (R20). -/
  status : Byte
  /-- `VALUE`: result latch of `RD1` (R20). -/
  value : Byte
  /-- `CS_LEVEL` (R27). -/
  csLevel : CsLevel
  /-- `BUS_HELD` (R28). -/
  busHeld : Bool
  /-- `TXBUF`, the caller's transmit buffer (R33). -/
  txbuf : Memory
  /-- `RXBUF`, the caller's receive buffer (R33). -/
  rxbuf : Memory
  /-- `TRACE`: every event since power-on, oldest first (R30). -/
  trace : List Event
  /-- The responses given since power-on, oldest first (R56, R71, R74; log 12). -/
  responses : List Response
  /-- The caller's remaining moves, next first (R59, R60; log 8). -/
  caller : List CallerMove
  /-- The bytes the environment will still answer, next first; empty: it does not answer (R62, R106; log 7). -/
  replies : List Byte
  /-- The model's own count of the draws taken (R68; log 6). -/
  draws : Nat
deriving DecidableEq, Repr

/-- Power-on (R32, R98): `PHASE`, `CS_LEVEL`, `BUS_HELD` and `TRACE` as the spec states them; the parameter set and
the environment open (log 1, 7); the caller has not moved (log 8). DESIGN CHOICE, unsafe: the registers and buffer
bytes the spec leaves unspecified are 0, and `OP` is `INIT`, whose code is 0 (log 3, 4). -/
def State.reset : State where
  par := Config.params
  cfgClk := 0
  cfgCs := 0
  phase := .uninit
  op := .init
  idx := 0
  len := 0
  dat := 0
  cmdb := 0
  cnt := 0
  status := 0
  value := 0
  csLevel := .unspecified
  busHeld := false
  txbuf := []
  rxbuf := []
  trace := []
  responses := []
  caller := []
  replies := Config.replies
  draws := 0

/-- The block has no exception, trap or fault of any kind (R85): there is no fault, and no step ends in one. A bus
that never answers is a state the block stays in, not a fault (R106). -/
inductive Fault where
deriving DecidableEq, Repr

/-- Why a meaning gives no next state. -/
inductive Refusal where
  /-- An arm of `exec` not given its meaning yet. Raised by no arm. Safe. -/
  | notModelled (mnemonic : String)
  /-- A request while an operation is in flight: the spec gives the caller no move there (R67, R105). Raised by the
  meanings of `RD1`, `RDN`, `CMD`, `WR1`, `WRN` in a busy phase; `step` never asks for it. Safe (log 10). -/
  | blockBusy
  /-- A command byte that is not the one the block sends next, or whose index is not valid: the block never decodes a
  command byte (R51). Raised by the meanings of `WIRE.R_REG` and `WIRE.W_REG`; `step` never asks for it. Safe (log 14). -/
  | commandByteNotDue
deriving DecidableEq, Repr

/-- What a meaning and a step answer. -/
abbrev Answer := Host.Outcome State Fault Refusal

end Sys2Proof.Machine
end

