-- ==== Sys2Proof/Machine/Ops.lean ====
section
/-! DEFINITION. The named operations: bytes of the buffers, and the seven downstream primitives (R61) with the line
state each one sets (R27, R28) and the event it records (R30). The block has no exception to take and none to return
from (R85, R91, R92). -/

namespace Sys2Proof.Machine

/-! ### Fixed values -/

/-- `SENTINEL_STATUS` (R10; log 17). -/
def sentinelStatus : Byte := 0xFF

/-- `FILLER` (R10; log 17). -/
def filler : Byte := 0xFF

/-- `CS_ACTIVE` (R13). -/
def csActive : Level := .low

/-- `CS_INACTIVE` (R13). -/
def csInactive : Level := .high

/-! ### Bytes of a buffer -/

/-- What a byte that no cell lists reads as. DESIGN CHOICE, unsafe (log 4): R32 gives none. -/
def unlistedByte : Byte := 0x00

/-- The byte at an address. -/
def Memory.lookup : Memory → Nat → Byte
  | [], _ => unlistedByte
  | (a, v) :: rest, k => if k = a then v else Memory.lookup rest k

/-- The cell for a byte, if it has to be listed. -/
def Memory.cell (k : Nat) (v : Byte) : Memory := if v = unlistedByte then [] else [(k, v)]

/-- Put a byte at an address, keeping the addresses rising and the unlisted byte unlisted. -/
def Memory.insert : Memory → Nat → Byte → Memory
  | [], k, v => Memory.cell k v
  | (a, x) :: rest, k, v =>
    if k < a then Memory.cell k v ++ (a, x) :: rest
    else if k = a then Memory.cell k v ++ rest
    else (a, x) :: Memory.insert rest k v

/-- `MemRead(buffer + k, 1)`: every 8-bit offset exists (R33). -/
def Memory.read (m : Memory) (k : Byte) : Byte := Memory.lookup m k.toNat

/-- `MemWrite(buffer + k, 1, v)` (R33). -/
def Memory.write (m : Memory) (k v : Byte) : Memory := Memory.insert m k.toNat v

/-- Addresses from a bound on, strictly rising, inside the buffer, no cell equal to the unlisted byte. -/
def Memory.wfFrom : Nat → Memory → Bool
  | _, [] => true
  | lo, (a, v) :: rest => decide (lo ≤ a ∧ a < 256 ∧ v ≠ unlistedByte) && Memory.wfFrom (a + 1) rest

/-- The canonical form of a buffer of 256 bytes (R33). -/
def Memory.wf (m : Memory) : Bool := Memory.wfFrom 0 m

/-- The caller stores a byte into one of its buffers (R33, R59). -/
def storeByte (b : Buffer) (k v : Byte) (s : State) : State :=
  match b with
  | .tx => { s with txbuf := s.txbuf.write k v }
  | .rx => { s with rxbuf := s.rxbuf.write k v }

/-! ### Downstream primitives -/

/-- Append one event to `TRACE` (R30). -/
def emit (e : Event) (s : State) : State := { s with trace := s.trace ++ [e] }

/-- `CsMode(sel, mode)` (R61). -/
def csMode (sel : Byte) (mode : LineMode) (s : State) : State := emit (.csMode sel mode) s

/-- What `CS_LEVEL` holds after the line is driven to a level (R27). -/
def csLevelOf : Level → CsLevel
  | .low => .low
  | .high => .high

/-- `CsWrite(sel, level)` (R27, R61). -/
def csWrite (sel : Byte) (level : Level) (s : State) : State :=
  { emit (.csWrite sel level) s with csLevel := csLevelOf level }

/-- `BusInit()` (R61): prepares the driver, does not acquire the bus (R81). -/
def busInit (s : State) : State := emit .busInit s

/-- `BusBegin(clk, order, mode)`: acquires and configures the bus (R28, R61). -/
def busBegin (clk : Hertz) (order : BitOrder) (mode : ClockMode) (s : State) : State :=
  { emit (.busBegin clk order mode) s with busHeld := true }

/-- `BusEnd()`: releases the bus (R28, R61). -/
def busEnd (s : State) : State := { emit .busEnd s with busHeld := false }

/-- `DelayUs(t)`: an event without duration (R63; log 18). -/
def delayUs (t : Nat) (s : State) : State := emit (.delay t) s

/-- `BusXfer(tx)`: the environment's next reply and the state after the exchange, or nothing while the environment
does not answer; no reply is ruled out (R61, R62, R106; log 7). -/
def busXfer (tx : Byte) (s : State) : Option (Byte × State) :=
  match s.replies with
  | [] => none
  | rx :: rest => some (rx, { emit (.xfer tx rx) s with replies := rest })

/-- `draw8()`: the next value the model must not fix (R68, R86; log 6). -/
def nextDraw (s : State) : Byte := Config.draw8 s.draws

/-- Bytes 0 to `n - 1` of `RXBUF` become draws, in ascending order (R68, R77). -/
def drawIntoRx : Nat → State → State
  | 0, s => s
  | n + 1, s =>
    let s' := drawIntoRx n s
    { s' with rxbuf := s'.rxbuf.write (BitVec.ofNat 8 n) (nextDraw s'), draws := s'.draws + 1 }

end Sys2Proof.Machine
end

