-- ==== Sys2Proof/Machine/Flags.lean ====
section
/-! DEFINITION. The block has no flags and no condition codes (R23). What its three conditional transfers test
(R75), each consumed in the step that computes it: the validity gate, and whether a payload byte is left. -/

namespace Sys2Proof.Machine

/-- `Valid(i)`: the whole 8-bit index, unsigned, below `NUM_REGISTERS` (R52). -/
def validIndex (p : Params) (i : Byte) : Bool := decide (i.toNat < p.numRegisters)

/-- The operation reads: it keeps the target's status (R69). -/
def isRead : Op → Bool
  | .rd1 => true
  | .rdn => true
  | .init => false
  | .cmd => false
  | .wr1 => false
  | .wrn => false

/-- The condition at `GATE`: the bare command, or a valid index (R68). `INIT` never stands at the gate; there it
falls under R68's last arm (log 19). -/
def passesGate (s : State) : Bool :=
  match s.op with
  | .cmd => true
  | .init => false
  | .rd1 => validIndex s.par s.idx
  | .rdn => validIndex s.par s.idx
  | .wr1 => validIndex s.par s.idx
  | .wrn => validIndex s.par s.idx

/-- The payload count `N` of the operation's frame (R50); `INIT` has no frame. -/
def payloadCount (s : State) : Byte :=
  match s.op with
  | .rd1 => 1
  | .rdn => s.len
  | .cmd => 0
  | .wr1 => 1
  | .wrn => s.len
  | .init => 0

/-- `cnt <u N`: a payload byte is left when `cnt` have been exchanged (R53). -/
def payloadLeft (s : State) (cnt : Byte) : Bool := decide (cnt.toNat < (payloadCount s).toNat)

/-- The phase after an exchange, `cnt` payload bytes done (R69, R70). -/
def afterExchange (s : State) (cnt : Byte) : Phase := if payloadLeft s cnt then .xp else .e1

/-- The phases in which the block waits for the caller (R67). -/
def Phase.waitsForCaller : Phase → Bool
  | .uninit => true
  | .idle => true
  | _ => false

/-- The environment has to answer before the block can go on, and does not (R72, R106). -/
def awaitsReply (s : State) : Bool :=
  (decide (s.phase = .x0) || decide (s.phase = .xp)) && s.replies.isEmpty

end Sys2Proof.Machine
end

