-- ==== Sys2Proof/Machine/Operands.lean ====
section
/-! DEFINITION. Where an operation's operands come from and go: the operand latches (R18, R54), the command byte
(R51), the payload byte sent (R70), where a reply goes (R69, R70), the response (R56). -/

namespace Sys2Proof.Machine

/-- Accept: copy the request's fields into the latches, and for `INIT` into the configuration (R54, R67). -/
def latchRequest (op : Op) (a b : Byte) (clk : Hertz) (s : State) : State :=
  { s with
    op := op
    idx := a
    len := b
    dat := if op = .cmd then a else b
    cfgCs := if op = .init then a else s.cfgCs
    cfgClk := if op = .init then clk else s.cfgClk
    phase := if op = .init then .c1 else .gate }

/-- The command byte: a bitwise OR with the base, or the raw code (R51). -/
def commandByte (s : State) : Byte :=
  match s.op with
  | .rd1 => s.par.readBase ||| s.idx
  | .rdn => s.par.readBase ||| s.idx
  | .wr1 => s.par.writeBase ||| s.idx
  | .wrn => s.par.writeBase ||| s.idx
  | .cmd => s.dat
  | .init => s.cmdb

/-- The payload byte sent, number `CNT` (R70). `CMD` and `INIT` send none (log 19). -/
def payloadByte (s : State) : Byte :=
  match s.op with
  | .rd1 => filler
  | .rdn => filler
  | .wr1 => s.dat
  | .wrn => s.txbuf.read s.cnt
  | .cmd => filler
  | .init => filler

/-- Where the reply to the command byte goes: reads keep it as the status, the others discard it (R69). -/
def keepStatus (rx : Byte) (s : State) : State := if isRead s.op then { s with status := rx } else s

/-- Where the reply to payload byte `CNT` goes (R70). -/
def keepPayload (rx : Byte) (s : State) : State :=
  match s.op with
  | .rd1 => { s with value := rx }
  | .rdn => { s with rxbuf := s.rxbuf.write s.cnt rx }
  | .wr1 => s
  | .wrn => s
  | .cmd => s
  | .init => s

/-- The results of an operation that fails the gate (R68, R86): the sentinel, and draws where the spec leaves the
data unspecified; a write leaves nothing. -/
def invalidResult (s : State) : State :=
  match s.op with
  | .rd1 => { s with status := sentinelStatus, value := nextDraw s, draws := s.draws + 1 }
  | .rdn => drawIntoRx s.len.toNat { s with status := sentinelStatus }
  | .wr1 => s
  | .wrn => s
  | .cmd => s
  | .init => s

/-- The response record of the operation (R56). -/
def responseOf (s : State) : Response :=
  match s.op with
  | .rd1 => .statusValue s.status s.value
  | .rdn => .status s.status
  | .init => .completion
  | .cmd => .completion
  | .wr1 => .completion
  | .wrn => .completion

end Sys2Proof.Machine
end

