-- ==== Sys2Proof/Machine/Sequencer.lean ====
section
/-! DEFINITION. The sequencer: one row of R72's table for each phase, the run of an operation to its end, and the
admission of a request (R67). -/

namespace Sys2Proof.Machine

/-- Row `C1`: the line becomes an output (R72, R81; log 16). -/
def rowC1 (s : State) : State := { csMode s.cfgCs .output s with phase := .c2 }

/-- Row `C2`: the line is driven inactive (R72, R81). -/
def rowC2 (s : State) : State := { csWrite s.cfgCs csInactive s with phase := .c3 }

/-- Row `C3`: the bus driver is prepared (R72, R81). -/
def rowC3 (s : State) : State := { busInit s with phase := .respond }

/-- Row `GATE`: the command byte, or the results of an invalid index without any event (R68). -/
def rowGate (s : State) : State :=
  if passesGate s then { s with cmdb := commandByte s, phase := .b1 }
  else { invalidResult s with phase := .respond }

/-- Row `B1`: the bus is acquired and configured, afresh in every transaction (R64, R103). -/
def rowB1 (s : State) : State := { busBegin s.cfgClk .msbFirst .idleLowSampleRising s with phase := .b2 }

/-- Row `B2`: chip-select is asserted (R64). -/
def rowB2 (s : State) : State := { csWrite s.cfgCs csActive s with phase := .b3 }

/-- Row `B3`: the settle delay (R64, R102). -/
def rowB3 (s : State) : State := { delayUs s.par.tSettleUs s with phase := .x0 }

/-- Row `X0`: the command byte is exchanged, once the environment answers (R69). -/
def rowX0 (s : State) : State :=
  match busXfer s.cmdb s with
  | none => s
  | some (rx, s') => { keepStatus rx s' with cnt := 0, phase := afterExchange s 0 }

/-- Row `XP`: payload byte `CNT` is exchanged, once the environment answers (R70). -/
def rowXp (s : State) : State :=
  match busXfer (payloadByte s) s with
  | none => s
  | some (rx, s') => { keepPayload rx s' with cnt := s.cnt + 1, phase := afterExchange s (s.cnt + 1) }

/-- Row `E1`: chip-select is deasserted (R65). -/
def rowE1 (s : State) : State := { csWrite s.cfgCs csInactive s with phase := .e2 }

/-- Row `E2`: the settle delay (R65, R102). -/
def rowE2 (s : State) : State := { delayUs s.par.tSettleUs s with phase := .e3 }

/-- Row `E3`: the bus is released (R65). -/
def rowE3 (s : State) : State := { busEnd s with phase := .respond }

/-- Row `RESPOND`: the caller gets the response and may move again (R71). -/
def rowRespond (s : State) : State := { s with responses := s.responses ++ [responseOf s], phase := .idle }

/-- One step of the block: the row of R72's table whose `PHASE` holds. In `UNINIT` and `IDLE` the block waits. -/
def advance (s : State) : State :=
  match s.phase with
  | .uninit => s
  | .c1 => rowC1 s
  | .c2 => rowC2 s
  | .c3 => rowC3 s
  | .idle => s
  | .gate => rowGate s
  | .b1 => rowB1 s
  | .b2 => rowB2 s
  | .b3 => rowB3 s
  | .x0 => rowX0 s
  | .xp => rowXp s
  | .e1 => rowE1 s
  | .e2 => rowE2 s
  | .e3 => rowE3 s
  | .respond => rowRespond s

/-- The block can take no step by itself: it waits for the caller, or for the environment (R72, R106). -/
def quiescent (s : State) : Bool := s.phase.waitsForCaller || awaitsReply s

/-- Take steps until the block is quiescent, at most the given number. -/
def run : Nat → State → State
  | 0, s => s
  | n + 1, s => if quiescent s then s else run n (advance s)

/-- The most steps of an operation after accept: 262 downstream calls and the event-free `GATE` and `RESPOND` (R75). -/
def longestOperation : Nat := 264

/-- What the block does with a request (R67). -/
inductive Admission where
  /-- It is accepted. -/
  | accepted
  /-- It is refused in the spec's sense: nothing changes, no event, no response (R82, R83; log 9). -/
  | turnedAway
  /-- The caller has no such move (R67, R105; log 10). -/
  | noMove
deriving DecidableEq, Repr

/-- Which requests are accepted in which phase: `INIT` in `UNINIT` and nowhere else (R67, R83), the others in `IDLE`;
the others are refused in `UNINIT` (R82) and impossible while the block is busy (R67). -/
def admission (op : Op) (ph : Phase) : Admission :=
  if op = .init then (if ph = .uninit then .accepted else .turnedAway)
  else if ph = .idle then .accepted
  else if ph = .uninit then .turnedAway
  else .noMove

/-- One request from accept to response, as one big step (R74; log 11); where the environment stops answering, up to
the exchange it leaves unanswered (R74 (c), R106). -/
def perform (op : Op) (a b : Byte) (clk : Hertz) (s : State) : Answer :=
  match admission op s.phase with
  | .accepted => .next (run longestOperation (latchRequest op a b clk s))
  | .turnedAway => .next s
  | .noMove => .refused .blockBusy

end Sys2Proof.Machine
end

