-- ==== Sys2Proof/Machine/Command.lean ====
section
/-! DEFINITION. The bare command operation (42_command_op.md). -/

namespace Sys2Proof.Machine

/-- `CMD code`: one byte inside a bracket, no gate, the reply discarded (R78). -/
def execCmd (code b : Byte) (s : State) : Answer := perform .cmd code b 0 s

end Sys2Proof.Machine
end

