-- ==== Sys2Proof/Machine/Construction.lean ====
section
/-! DEFINITION. The construction operation (44_construction.md). -/

namespace Sys2Proof.Machine

/-- `INIT clk, cs`: store the configuration, make the line an output, drive it inactive, prepare the bus driver
(R81); refused after construction (R83). Field `A` is `cs`, field `B` is ignored (R54). -/
def execInit (clk : Hertz) (cs b : Byte) (s : State) : Answer := perform .init cs b clk s

end Sys2Proof.Machine
end

