-- ==== Sys2Proof/Machine/Read.lean ====
section
/-! DEFINITION. The read operations (41_read_ops.md). Field `CLK` is ignored by both (R54). -/

namespace Sys2Proof.Machine

/-- `RD1 idx`: status and one byte of a target register (R76); the sentinel and a draw on an invalid index (R86). -/
def execRd1 (idx b : Byte) (s : State) : Answer := perform .rd1 idx b 0 s

/-- `RDN idx, len`: status, and `len` bytes into `RXBUF` (R77); the sentinel and draws on an invalid index (R86). -/
def execRdn (idx len : Byte) (s : State) : Answer := perform .rdn idx len 0 s

end Sys2Proof.Machine
end

