-- ==== Sys2Proof/Machine/Wire.lean ====
section
/-! DEFINITION. The two command-byte rows of the opcode table (R51): no request, but the first byte of a frame as the
block encodes it. Their meaning is the exchange in which the block sends that byte (R69; log 14). -/

namespace Sys2Proof.Machine

/-- The byte is the command byte the block sends next: it stands at `X0` with the byte in `CMDB`, for a valid index
(R51, R69). -/
def commandByteDue (base idx : Byte) (s : State) : Bool :=
  decide (s.phase = .x0) && validIndex s.par idx && decide (s.cmdb = base ||| idx)

/-- `WIRE.R_REG`: the exchange of `READ_COMMAND_BASE | idx`, produced by `RD1` and `RDN` (R51, R69). -/
def execWireRReg (idx : Byte) (s : State) : Answer :=
  if isRead s.op && commandByteDue s.par.readBase idx s then .next (rowX0 s) else .refused .commandByteNotDue

/-- `WIRE.W_REG`: the exchange of `WRITE_COMMAND_BASE | idx`, produced by `WR1` and `WRN` (R51, R69). -/
def execWireWReg (idx : Byte) (s : State) : Answer :=
  if (decide (s.op = .wr1) || decide (s.op = .wrn)) && commandByteDue s.par.writeBase idx s then .next (rowX0 s)
  else .refused .commandByteNotDue

end Sys2Proof.Machine
end

