-- ==== Sys2Proof/Machine/Write.lean ====
section
/-! DEFINITION. The write operations (43_write_ops.md). Field `CLK` is ignored by both (R54). -/

namespace Sys2Proof.Machine

/-- `WR1 idx, val`: write one byte (R79); a silent no-op on an invalid index (R86). -/
def execWr1 (idx val : Byte) (s : State) : Answer := perform .wr1 idx val 0 s

/-- `WRN idx, len`: write `TXBUF[0 .. len-1]` (R80); a silent no-op on an invalid index (R86). -/
def execWrn (idx len : Byte) (s : State) : Answer := perform .wrn idx len 0 s

end Sys2Proof.Machine
end

