-- ==== Sys2Proof/Machine/Dispatch.lean ====
section
/-! DEFINITION. One arm for each instruction. -/

namespace Sys2Proof.Machine

def exec (i : Instr) (s : State) : Host.Outcome State Fault Refusal :=
  match i with
  | .init clk cs b => Sys2Proof.Machine.execInit clk cs b s
  | .rd1 idx b => Sys2Proof.Machine.execRd1 idx b s
  | .rdn idx len => Sys2Proof.Machine.execRdn idx len s
  | .cmd code b => Sys2Proof.Machine.execCmd code b s
  | .wr1 idx val => Sys2Proof.Machine.execWr1 idx val s
  | .wrn idx len => Sys2Proof.Machine.execWrn idx len s
  | .wireRReg idx => Sys2Proof.Machine.execWireRReg idx s
  | .wireWReg idx => Sys2Proof.Machine.execWireWReg idx s

end Sys2Proof.Machine
end

