-- ==== Sys2Proof/WellFormed.lean ====
section
/-! DEFINITION. Which instructions are well formed under a parameter set. -/

namespace Sys2Proof

/-- Every operand of a request is legal: an index out of range is no illegal encoding (R58), every length, code and
`INIT` operand is legal. A command-byte row is produced only for a valid index (R51). -/
def Instr.wellFormed (p : Params) : Instr → Bool
  | .init _ _ _ => true
  | .rd1 _ _ => true
  | .rdn _ _ => true
  | .cmd _ _ => true
  | .wr1 _ _ => true
  | .wrn _ _ => true
  | .wireRReg idx => decide (idx.toNat < p.numRegisters)
  | .wireWReg idx => decide (idx.toNat < p.numRegisters)

end Sys2Proof
end

