-- ==== Sys2Proof/Decode.lean ====
section
/-! DEFINITION. The decoder of request descriptors (R54, R55, R57), the reader of command bytes (R51), the encoders,
and the host's view of spec/opcode_table.json. -/

namespace Sys2Proof

/-- What a word that is no instruction is refused as. -/
inductive DecodeError where
  /-- The descriptor's `OPC` is 0x06 to 0xFF: reserved (R57). -/
  | reservedOperationCode (opc : Byte)
  /-- The byte lies under neither command base: of the block's frames only `CMD` can begin with it (R51). -/
  | notARegisterCommand (byte : Byte)
deriving DecidableEq, Repr

/-- Field `OPC`, bits 63:56 (R54). -/
def fieldOpc (w : Descriptor) : Byte := w.extractLsb' 56 8

/-- Field `A`, bits 55:48 (R54). -/
def fieldA (w : Descriptor) : Byte := w.extractLsb' 48 8

/-- Field `B`, bits 47:40 (R54). -/
def fieldB (w : Descriptor) : Byte := w.extractLsb' 40 8

/-- Field `CLK`, bits 31:0 (R54). -/
def fieldClk (w : Descriptor) : Hertz := w.extractLsb' 0 32

/-- A decoder reads `OPC` alone (R55); a reserved code is refused by name (R57). -/
def decodeDescriptor (w : Descriptor) : Except DecodeError Instr :=
  match (fieldOpc w).toNat with
  | 0 => .ok (.init (fieldClk w) (fieldA w) (fieldB w))
  | 1 => .ok (.rd1 (fieldA w) (fieldB w))
  | 2 => .ok (.rdn (fieldA w) (fieldB w))
  | 3 => .ok (.cmd (fieldA w) (fieldB w))
  | 4 => .ok (.wr1 (fieldA w) (fieldB w))
  | 5 => .ok (.wrn (fieldA w) (fieldB w))
  | _ => .error (.reservedOperationCode (fieldOpc w))

/-- The mask of the index field of a command byte: its low `IDX_BITS` bits (R51). -/
def indexMask (p : Params) : Byte := BitVec.ofNat 8 (2 ^ p.idxBits - 1)

/-- Read a command byte as a row of the table: base in bits 7:IDX_BITS, index in bits IDX_BITS-1:0 (R51). The block
itself never does this; it is the reader's view of the bus (log 14). DESIGN CHOICE (log 14): a byte under a base whose
index is not below `NUM_REGISTERS` lies in neither set of R51's map, and the spec gives no decoder for it; it is read as
the row whose printed pattern it fits, with that index, an instruction that is not well formed. -/
def decodeCommandByte (p : Params) (byte : Byte) : Except DecodeError Instr :=
  if byte &&& ~~~ indexMask p = p.readBase then .ok (.wireRReg (byte &&& indexMask p))
  else if byte &&& ~~~ indexMask p = p.writeBase then .ok (.wireWReg (byte &&& indexMask p))
  else .error (.notARegisterCommand byte)

/-- A word of either format of the table. -/
inductive CodeWord where
  /-- Format `REQ64` (R54). -/
  | descriptor (w : Descriptor)
  /-- Format `CMDBYTE8` (R51). -/
  | commandByte (byte : Byte)
deriving DecidableEq, Repr

/-- The decoder over both formats, total. -/
def decode (p : Params) : CodeWord → Except DecodeError Instr
  | .descriptor w => decodeDescriptor w
  | .commandByte byte => decodeCommandByte p byte

/-- Assemble a descriptor from `OPC`, `A`, `B` and `CLK`; the reserved byte is zero (R54). -/
def packDescriptor (opc a b : Byte) (clk : Hertz) : Descriptor :=
  BitVec.ofNat 64 (opc.toNat * 2 ^ 56 + a.toNat * 2 ^ 48 + b.toNat * 2 ^ 40 + clk.toNat)

/-- The encoder: ignored fields are zero, but for a `B` the instruction carries (R51, R54, R55). -/
def encode (p : Params) : Instr → CodeWord
  | .init clk cs b => .descriptor (packDescriptor 0x00 cs b clk)
  | .rd1 idx b => .descriptor (packDescriptor 0x01 idx b 0)
  | .rdn idx len => .descriptor (packDescriptor 0x02 idx len 0)
  | .cmd code b => .descriptor (packDescriptor 0x03 code b 0)
  | .wr1 idx val => .descriptor (packDescriptor 0x04 idx val 0)
  | .wrn idx len => .descriptor (packDescriptor 0x05 idx len 0)
  | .wireRReg idx => .commandByte (p.readBase ||| idx)
  | .wireWReg idx => .commandByte (p.writeBase ||| idx)

/-- The instruction of a decoder's answer. -/
def decodedInstr : Except DecodeError Instr → Option Instr
  | .ok i => some i
  | .error _ => none

/-- The instruction the decoder reads from a word as spec/opcode_table.json numbers its bits: 8 bits are a row of
format `CMDBYTE8`, whose printed pattern is that of `REF` (log 2); everything else is a descriptor. -/
def decodeTableWord (nbits w : Nat) : Option Instr :=
  if nbits = 8 then decodedInstr (decodeCommandByte Params.ref (BitVec.ofNat 8 w))
  else decodedInstr (decodeDescriptor (BitVec.ofNat 64 w))

end Sys2Proof
end

