-- ==== Sys2Proof/Machine/Fetch.lean ====
section
/-! DEFINITION. How the block comes by its next operation: it fetches no instructions (R48); the caller hands it
requests one at a time (R60). And how a word is placed so that the very next step runs it (log 8, 14). -/

namespace Sys2Proof.Machine

/-- The caller's next move is taken off its list. -/
def popMove (s : State) : State := { s with caller := s.caller.tail }

/-- The request the descriptor codes, or none for a reserved code (R55, R57). -/
def fetchRequest (w : Descriptor) : Except DecodeError Instr := decodeDescriptor w

/-- The phase in which a descriptor is accepted: `UNINIT` for `INIT`, `IDLE` for the others (R67). -/
def acceptingPhase (w : Descriptor) : Phase := if fieldOpc w = 0 then .uninit else .idle

/-- The caller issues a descriptor, its next move. Accepted, the move is used up and the operation is performed.
Refused (R57, R82, R83), nothing changes: no response is given, so the caller waits for it for ever, its request still
its next move (R60; log 9). -/
def takeRequest (w : Descriptor) (s : State) : Answer :=
  match fetchRequest w with
  | .ok i => if s.phase = acceptingPhase w then exec i (popMove s) else exec i s
  | .error _ => .next s

/-- The caller's next move while the block waits for it: a store into its buffers or a request (R59, R67). Without a
move the block waits on. -/
def takeMove (s : State) : Answer :=
  match s.caller with
  | [] => .next s
  | .store b k v :: _ => .next (storeByte b k v (popMove s))
  | .request w :: _ => takeRequest w s

/-- The caller issues the descriptor next, to a block that waits in the phase that accepts it (R67). -/
def placeRequest (w : Descriptor) (s : State) : State :=
  { s with caller := .request w :: s.caller, phase := acceptingPhase w }

/-- The block stands at `X0` of an operation with the byte due, under the parameter set the table is printed for
(R51, R69; log 2, 14). -/
def placeExchange (op : Op) (idx byte : Byte) (s : State) : State :=
  { s with par := Params.ref, phase := .x0, op := op, idx := idx, cmdb := byte }

/-- The byte is due as the raw code of a `CMD`, which can send any byte (R51, R54). -/
def placeCode (byte : Byte) (s : State) : State := { placeExchange .cmd byte byte s with dat := byte }

/-- The byte is placed where the block sends it: as the command byte of an `RD1` or of a `WR1` for a valid index,
else as the code of a `CMD`. DESIGN CHOICE (log 14): so are placed the bytes under neither base, and the bytes under a
base whose index is not valid (0x1E, 0x1F, 0x3E, 0x3F under `REF`), for which the spec gives no place; of the block's
operations `CMD` alone can send them, and `exec` of the row they read as refuses them. -/
def placeCommandByte (byte : Byte) (s : State) : State :=
  match decodeCommandByte Params.ref byte with
  | .ok (.wireRReg idx) => if validIndex Params.ref idx then placeExchange .rd1 idx byte s else placeCode byte s
  | .ok (.wireWReg idx) => if validIndex Params.ref idx then placeExchange .wr1 idx byte s else placeCode byte s
  | _ => placeCode byte s

end Sys2Proof.Machine
end

