-- ==== Sys2Proof/Machine/Step.lean ====
section
/-! DEFINITION. One step of the whole: the caller's next move while the block waits for it, one row of the sequencer
while an operation is in flight. -/

namespace Sys2Proof.Machine

/-- While the block waits for the caller, the caller's next move, a request being run as one big step (R67, R74;
log 11). While an operation is in flight the caller has no move and the block takes the row of its phase (R67, R72);
while the environment does not answer it stays where it is (R106). -/
def step (s : State) : Host.Outcome State Fault Refusal :=
  if s.phase.waitsForCaller then takeMove s else .next (advance s)

/-- The state with the table's word placed so that the very next step runs it (log 8, 14): a descriptor as the
caller's next request, a command byte as the byte due. -/
def State.withFetchWord (s : State) (nbits w : Nat) : State :=
  if nbits = 8 then placeCommandByte (BitVec.ofNat 8 w) s else placeRequest (BitVec.ofNat 64 w) s

end Sys2Proof.Machine
end

