-- ==== Sys2Proof/Laws/PerInstr.lean ====
section
/-! SUPPORT. Per-instruction statements about the encoding. -/

/-- The table's fixed bits stand in the encoded word: `OPC` in bits 63:56 of a descriptor (R55), the command base in
the bits of a command byte (R51). -/
def Sys2Proof.Laws.FixedBits.Statement (i : Sys2Proof.Instr) : Prop :=
  ∀ p : Sys2Proof.Params,
    match i with
    | .init _ _ _ => ∃ w, Sys2Proof.encode p i = .descriptor w ∧ Sys2Proof.fieldOpc w = 0x00
    | .rd1 _ _ => ∃ w, Sys2Proof.encode p i = .descriptor w ∧ Sys2Proof.fieldOpc w = 0x01
    | .rdn _ _ => ∃ w, Sys2Proof.encode p i = .descriptor w ∧ Sys2Proof.fieldOpc w = 0x02
    | .cmd _ _ => ∃ w, Sys2Proof.encode p i = .descriptor w ∧ Sys2Proof.fieldOpc w = 0x03
    | .wr1 _ _ => ∃ w, Sys2Proof.encode p i = .descriptor w ∧ Sys2Proof.fieldOpc w = 0x04
    | .wrn _ _ => ∃ w, Sys2Proof.encode p i = .descriptor w ∧ Sys2Proof.fieldOpc w = 0x05
    | .wireRReg _ => ∃ c, Sys2Proof.encode p i = .commandByte c ∧ c &&& p.readBase = p.readBase
    | .wireWReg _ => ∃ c, Sys2Proof.encode p i = .commandByte c ∧ c &&& p.writeBase = p.writeBase

namespace Sys2Proof.Laws

/-- The top byte of four packed fields. -/
theorem top_field {o a b c : Nat} (ho : o < 2 ^ 8) (ha : a < 2 ^ 8) (hb : b < 2 ^ 8) (hc : c < 2 ^ 32) :
    (o * 2 ^ 56 + a * 2 ^ 48 + b * 2 ^ 40 + c) % 2 ^ 64 / 2 ^ 56 % 2 ^ 8 = o := by
  omega

theorem fieldOpc_pack (opc a b : Byte) (clk : Hertz) : fieldOpc (packDescriptor opc a b clk) = opc := by
  apply BitVec.eq_of_toNat_eq
  rw [fieldOpc, packDescriptor, BitVec.extractLsb'_toNat, BitVec.toNat_ofNat, Nat.shiftRight_eq_div_pow]
  exact top_field opc.isLt a.isLt b.isLt clk.isLt

theorem or_and_self (b i : Byte) : (b ||| i) &&& b = b := by
  apply BitVec.eq_of_getLsbD_eq
  intro k _
  cases h : b.getLsbD k <;> simp [h]

theorem FixedBits.init (clk : Hertz) (cs b : Byte) : FixedBits.Statement (.init clk cs b) :=
  fun _ => ⟨_, rfl, fieldOpc_pack _ _ _ _⟩

theorem FixedBits.rd1 (idx b : Byte) : FixedBits.Statement (.rd1 idx b) := fun _ => ⟨_, rfl, fieldOpc_pack _ _ _ _⟩

theorem FixedBits.rdn (idx len : Byte) : FixedBits.Statement (.rdn idx len) :=
  fun _ => ⟨_, rfl, fieldOpc_pack _ _ _ _⟩

theorem FixedBits.cmd (code b : Byte) : FixedBits.Statement (.cmd code b) := fun _ => ⟨_, rfl, fieldOpc_pack _ _ _ _⟩

theorem FixedBits.wr1 (idx val : Byte) : FixedBits.Statement (.wr1 idx val) :=
  fun _ => ⟨_, rfl, fieldOpc_pack _ _ _ _⟩

theorem FixedBits.wrn (idx len : Byte) : FixedBits.Statement (.wrn idx len) :=
  fun _ => ⟨_, rfl, fieldOpc_pack _ _ _ _⟩

theorem FixedBits.wireRReg (idx : Byte) : FixedBits.Statement (.wireRReg idx) := fun _ => ⟨_, rfl, or_and_self _ _⟩

theorem FixedBits.wireWReg (idx : Byte) : FixedBits.Statement (.wireWReg idx) := fun _ => ⟨_, rfl, or_and_self _ _⟩

end Sys2Proof.Laws
end

