-- ==== Sys2Proof/Safety.lean ====
section
/-! DEFINITION. The terms claims are made in: final and stuck states, the order of events a trace must keep, the
invariant of the block, and the premises under which several blocks share a bus. -/

namespace Sys2Proof.Machine

/-- The move is a request. -/
def isRequest : CallerMove → Bool
  | .request _ => true
  | .store _ _ _ => false

/-- A run of the caller's program has ended: the response of its last operation is given (R101). The block is idle, and
the caller has no request left, neither one to issue nor a refused one it waits on (log 9). Stores into its own buffers
are no operations. -/
abbrev State.final (s : State) : Prop := s.phase = .idle ∧ ∀ m ∈ s.caller, isRequest m = false

/-- The block waits for a reply that does not come: stuck, not final, not a fault (R106). -/
abbrev State.stuck (s : State) : Prop := (s.phase = .x0 ∨ s.phase = .xp) ∧ s.replies = []

/-- An operation indexed by a target register: all but `INIT` and `CMD` (R52). -/
def indexed : Op → Bool
  | .rd1 => true
  | .rdn => true
  | .wr1 => true
  | .wrn => true
  | .init => false
  | .cmd => false

/-! ### Traces -/

/-- What one event does to the level of the chip-select line (R27). -/
def levelStep (l : CsLevel) : Event → CsLevel
  | .csWrite _ level => csLevelOf level
  | _ => l

/-- What one event does to the holding of the bus (R28). -/
def heldStep (h : Bool) : Event → Bool
  | .busBegin _ _ _ => true
  | .busEnd => false
  | _ => h

/-- The level of the chip-select line after a trace: that of its last `EvCsWrite` (R27). -/
def levelAfter (es : List Event) : CsLevel :=
  es.foldl levelStep .unspecified

/-- Whether the bus is held after a trace: from an `EvBusBegin` to the next `EvBusEnd` (R28). -/
def heldAfter (es : List Event) : Bool :=
  es.foldl heldStep false

/-- The event is an exchange. -/
def isXfer : Event → Bool
  | .xfer _ _ => true
  | _ => false

/-- The number of byte exchanges in a trace. -/
def exchanges (es : List Event) : Nat :=
  es.countP isXfer

/-- The events of one transaction around its exchanges (R73). -/
def bracket (s : State) (xs : List Event) : List Event :=
  [.busBegin s.cfgClk .msbFirst .idleLowSampleRising, .csWrite s.cfgCs .low, .delay s.par.tSettleUs] ++ xs ++
    [.csWrite s.cfgCs .high, .delay s.par.tSettleUs, .busEnd]

/-- The exchanges of payload bytes with their replies, in order (R73). -/
def exchangesOf (txs rxs : List Byte) : List Event := List.zipWith .xfer txs rxs

/-- Where a trace stands in the order that R66 and R73 give the events. -/
inductive TraceSite where
  | powerOn
  | lineOutput
  | lineInactive
  | outside
  | acquired
  | asserted
  | settled
  | exchanging
  | deasserted
  | released
deriving DecidableEq, Repr

/-- The one event order there is, with the configuration each event must carry (R64, R65, R66, R73, R81): at each site
the one event that may follow, or one more exchange. -/
def TraceSite.next (p : Params) (clk : Hertz) (cs : Byte) (t : TraceSite) (e : Event) : Option TraceSite :=
  match t with
  | .powerOn => if e = .csMode cs .output then some .lineOutput else none
  | .lineOutput => if e = .csWrite cs .high then some .lineInactive else none
  | .lineInactive => if e = .busInit then some .outside else none
  | .outside => if e = .busBegin clk .msbFirst .idleLowSampleRising then some .acquired else none
  | .acquired => if e = .csWrite cs .low then some .asserted else none
  | .asserted => if e = .delay p.tSettleUs then some .settled else none
  | .settled => if isXfer e then some .exchanging else none
  | .exchanging =>
    if isXfer e then some .exchanging else if e = .csWrite cs .high then some .deasserted else none
  | .deasserted => if e = .delay p.tSettleUs then some .released else none
  | .released => if e = .busEnd then some .outside else none

/-- Follow a trace from a site on; none where it leaves the order. -/
def followTrace (p : Params) (clk : Hertz) (cs : Byte) : TraceSite → List Event → Option TraceSite
  | t, [] => some t
  | t, e :: es =>
    match TraceSite.next p clk cs t e with
    | none => none
    | some t' => followTrace p clk cs t' es

/-- The site a trace has reached in each phase (R72). -/
def siteOf : Phase → TraceSite
  | .uninit => .powerOn
  | .c1 => .powerOn
  | .c2 => .lineOutput
  | .c3 => .lineInactive
  | .idle => .outside
  | .gate => .outside
  | .b1 => .outside
  | .b2 => .acquired
  | .b3 => .asserted
  | .x0 => .settled
  | .xp => .exchanging
  | .e1 => .exchanging
  | .e2 => .deasserted
  | .e3 => .released
  | .respond => .outside

/-- The level of the chip-select line in each phase (R27, R66, R81). -/
def levelOf : Phase → CsLevel
  | .uninit => .unspecified
  | .c1 => .unspecified
  | .c2 => .unspecified
  | .c3 => .high
  | .idle => .high
  | .gate => .high
  | .b1 => .high
  | .b2 => .high
  | .b3 => .low
  | .x0 => .low
  | .xp => .low
  | .e1 => .low
  | .e2 => .high
  | .e3 => .high
  | .respond => .high

/-- Whether the bus is held in each phase (R28, R66). -/
def heldIn : Phase → Bool
  | .b2 => true
  | .b3 => true
  | .x0 => true
  | .xp => true
  | .e1 => true
  | .e2 => true
  | .e3 => true
  | .uninit => false
  | .c1 => false
  | .c2 => false
  | .c3 => false
  | .idle => false
  | .gate => false
  | .b1 => false
  | .respond => false

/-- The phases of a construction in flight. -/
abbrev constructing (ph : Phase) : Prop := ph = .c1 ∨ ph = .c2 ∨ ph = .c3

/-- The phases from the gate's pass to the release of the bus. -/
abbrev onTheBus (ph : Phase) : Prop :=
  ph = .b1 ∨ ph = .b2 ∨ ph = .b3 ∨ ph = .x0 ∨ ph = .xp ∨ ph = .e1 ∨ ph = .e2 ∨ ph = .e3

/-- The phases after the last exchange. -/
abbrev closing (ph : Phase) : Prop := ph = .e1 ∨ ph = .e2 ∨ ph = .e3

/-- What holds of every state the block can be in. -/
structure State.Inv (s : State) : Prop where
  /-- The buffers keep their canonical form (R33). -/
  txbuf_wf : s.txbuf.wf = true
  rxbuf_wf : s.rxbuf.wf = true
  /-- `CS_LEVEL` and `BUS_HELD` are those of the phase (R66). -/
  level : s.csLevel = levelOf s.phase
  held : s.busHeld = heldIn s.phase
  /-- Nothing happens before construction (R98). -/
  quiet : s.phase = .uninit → s.trace = []
  /-- The trace keeps the order of R66 and R73 and stands where the phase says. -/
  order : followTrace s.par s.cfgClk s.cfgCs .powerOn s.trace = some (siteOf s.phase)
  /-- Construction is `INIT`'s alone, and `INIT` never stands at the gate or on the bus (R72). -/
  isInit : constructing s.phase → s.op = .init
  notInit : s.phase = .gate ∨ onTheBus s.phase → s.op ≠ .init
  /-- An invalid index does not reach the bus, and the command byte is that of R51 (R34, R86). -/
  validOnBus : onTheBus s.phase → indexed s.op = true → s.idx.toNat < s.par.numRegisters
  byteOnBus : onTheBus s.phase → s.cmdb = commandByte s
  /-- `CNT` is below `N` at a payload exchange and `N` after the last one: it never wraps (R19, R53). -/
  counting : s.phase = .xp → s.cnt.toNat < (payloadCount s).toNat
  counted : closing s.phase → s.cnt = payloadCount s

/-! ### Several blocks on one bus -/

/-- The launch premises of R96 that speak of the blocks themselves: (a) at most one has an operation in flight, (b) no
two that are constructed, or being so, have the same chip-select designator (before `INIT` it is unspecified, R32). Premise (c), no foreign byte while the bus is held, speaks of bus users the
model does not hold (log 15). -/
structure LaunchPremises (blocks : List State) : Prop where
  oneAtATime : blocks.Pairwise fun s t => s.phase.waitsForCaller = true ∨ t.phase.waitsForCaller = true
  ownLine : blocks.Pairwise fun s t => s.phase ≠ .uninit → t.phase ≠ .uninit → s.cfgCs ≠ t.cfgCs

end Sys2Proof.Machine
end

