-- ==== Sys2Proof/Certificates/Slice0/Obligations.lean ====
section
/-! DEFINITION. The statements about the block, for the provers. "log n" is notes/assumptions/n.md. -/

open Sys2Proof Sys2Proof.Machine

/-! ### Parameters -/

/-- R9: `IDX_BITS` is the largest `n` in 0..8 for which both bases leave their low `n` bits free. -/
def Obligations.IndexBitsAreTheLargest : Prop :=
  ∀ p : ParamSet,
    (p.idxBits ≤ 8 ∧ p.readBase &&& BitVec.ofNat 8 (2 ^ p.idxBits - 1) = 0 ∧
      p.writeBase &&& BitVec.ofNat 8 (2 ^ p.idxBits - 1) = 0) ∧
    ∀ n ≤ 8, p.readBase &&& BitVec.ofNat 8 (2 ^ n - 1) = 0 → p.writeBase &&& BitVec.ofNat 8 (2 ^ n - 1) = 0 →
      n ≤ p.idxBits

/-- R16: the model takes exactly the well-formed sets; there the OR touches no bit of the base, the index can be read
back, and a read command byte never equals a write command byte. -/
def Obligations.WellFormedSetsKeepCommandBytesApart : Prop :=
  (∀ p : ParamSet, (Params.ofSet? p).isSome = true ↔
    p.readBase ≠ p.writeBase ∧ 1 ≤ p.idxBits ∧ (1 ≤ p.numRegisters ∧ p.numRegisters ≤ 2 ^ p.idxBits) ∧
      0 < p.tSettleUs) ∧
  ∀ (p : Params) (i : Byte), i.toNat < p.numRegisters →
    (p.readBase ||| i = p.readBase + i ∧ p.writeBase ||| i = p.writeBase + i) ∧
    ((p.readBase ||| i) &&& BitVec.ofNat 8 (2 ^ p.idxBits - 1) = i ∧
      (p.writeBase ||| i) &&& BitVec.ofNat 8 (2 ^ p.idxBits - 1) = i) ∧
    ∀ j : Byte, j.toNat < p.numRegisters → p.readBase ||| i ≠ p.writeBase ||| j

/-- R52: a well-formed set has at most 128 registers, so index 0xFF is valid under none and index 0 under all. -/
def Obligations.AtMost128Registers : Prop :=
  ∀ p : Params, p.numRegisters ≤ 128 ∧ validIndex p 0xFF = false ∧ validIndex p 0 = true

/-! ### Encoding -/

/-- Decoding an encoded well-formed instruction gives it back, with every operand at every value. -/
def Obligations.DecodeOfEncode : Prop :=
  ∀ (p : Params) (i : Instr), i.wellFormed p = true → decode p (encode p i) = .ok i

/-- R54: encoding a decoded descriptor gives it back with the bits no latch takes cleared: the reserved byte, and
`CLK` for all but `INIT`. -/
def Obligations.EncodeOfDecode : Prop :=
  ∀ (p : Params) (w : Descriptor) (i : Instr), decodeDescriptor w = .ok i →
    encode p i = .descriptor
      (if fieldOpc w = 0 then w &&& 0xFFFFFF00FFFFFFFF else w &&& 0xFFFFFF0000000000)

/-- R55: a decoder reads `OPC` alone, match `OPC << 56` under mask 0xFF00000000000000; `A` is bits 55:48, `B` bits
47:40, `CLK` bits 31:0. -/
def Obligations.DescriptorFieldsDecode : Prop :=
  ∀ w : Descriptor,
    let a : Byte := BitVec.ofNat 8 (w.toNat / 2 ^ 48)
    let b : Byte := BitVec.ofNat 8 (w.toNat / 2 ^ 40)
    let clk : Hertz := BitVec.ofNat 32 w.toNat
    let top := w &&& 0xFF00000000000000
    (top = 0x0000000000000000 → decodeDescriptor w = .ok (.init clk a b)) ∧
    (top = 0x0100000000000000 → decodeDescriptor w = .ok (.rd1 a b)) ∧
    (top = 0x0200000000000000 → decodeDescriptor w = .ok (.rdn a b)) ∧
    (top = 0x0300000000000000 → decodeDescriptor w = .ok (.cmd a b)) ∧
    (top = 0x0400000000000000 → decodeDescriptor w = .ok (.wr1 a b)) ∧
    (top = 0x0500000000000000 → decodeDescriptor w = .ok (.wrn a b)) ∧
    (0x0600000000000000 ≤ w → decodeDescriptor w = .error (.reservedOperationCode (BitVec.ofNat 8 (w.toNat / 2 ^ 56))))

/-- The worked encodings of 30_encoding.md section 7 and 95_test_vectors.md section 3.1 decode to their requests, all of
them; the junk `B` of the second `RD1 5` is carried (log 13). -/
def Obligations.WorkedDescriptorsDecode : Prop :=
  decodeDescriptor 0x00070000003D0900 = .ok (.init 4000000 7 0) ∧
  decodeDescriptor 0x0000000000000000 = .ok (.init 0 0 0) ∧
  decodeDescriptor 0x00FF0000FFFFFFFF = .ok (.init 0xFFFFFFFF 0xFF 0) ∧
  decodeDescriptor 0x0105000000000000 = .ok (.rd1 5 0) ∧
  decodeDescriptor 0x0105FFFFFFFFFFFF = .ok (.rd1 5 0xFF) ∧
  decodeDescriptor 0x0140000000000000 = .ok (.rd1 0x40 0) ∧
  decodeDescriptor 0x020A050000000000 = .ok (.rdn 10 5) ∧
  decodeDescriptor 0x0200FF0000000000 = .ok (.rdn 0 255) ∧
  decodeDescriptor 0x03E1000000000000 = .ok (.cmd 0xE1 0) ∧
  decodeDescriptor 0x0405AA0000000000 = .ok (.wr1 5 0xAA) ∧
  decodeDescriptor 0x050A050000000000 = .ok (.wrn 10 5) ∧
  decodeDescriptor 0x0600000000000000 = .error (.reservedOperationCode 0x06) ∧
  decodeDescriptor 0xFF05AA0000000000 = .error (.reservedOperationCode 0xFF)

/-- R57: a reserved descriptor is refused: no latch changes, no event, `PHASE` as it was, no response; and no other
field makes a descriptor reserved. What the caller does next is not the rule's (log 9) and left open. -/
def Obligations.ReservedDescriptorIsRefused : Prop :=
  (∀ (s : State) (w : Descriptor) (rest : List CallerMove),
    s.phase.waitsForCaller = true → s.caller = .request w :: rest → 0x06 ≤ fieldOpc w →
    ∃ moves, step s = .next { s with caller := moves }) ∧
  ∀ w : Descriptor, fieldOpc w < 0x06 → ∃ i, decodeDescriptor w = .ok i

/-- When the caller's next move is a request that decodes to an instruction, the step is that instruction's `exec`:
with the move taken off the caller's list where the block accepts it (R67), else with the move left there, nothing
changed (log 8, 9). -/
def Obligations.StepRunsTheDecodedRequest : Prop :=
  ∀ (s : State) (w : Descriptor) (rest : List CallerMove) (i : Instr),
    s.phase.waitsForCaller = true → s.caller = .request w :: rest → decodeDescriptor w = .ok i →
    ((s.phase = .uninit ↔ fieldOpc w = 0) → step s = exec i { s with caller := rest }) ∧
    (¬ (s.phase = .uninit ↔ fieldOpc w = 0) → step s = exec i s ∧ step s = .next s)

/-- R33, R59: the caller's store changes the one byte of the one buffer and nothing else. -/
def Obligations.CallerStoreChangesOneByte : Prop :=
  ∀ (s : State) (b : Buffer) (k v : Byte) (rest : List CallerMove),
    s.phase.waitsForCaller = true → s.caller = .store b k v :: rest →
    s.txbuf.wf = true → s.rxbuf.wf = true →
    ∃ mt mr, step s = .next { s with caller := rest, txbuf := mt, rxbuf := mr } ∧
      (∀ j, mt.read j = if b = .tx ∧ j = k then v else s.txbuf.read j) ∧
      (∀ j, mr.read j = if b = .rx ∧ j = k then v else s.rxbuf.read j)

/-! ### Power-on and the invariant -/

/-- R32, R98: what the spec gives at power-on. The values of the registers there are the model's (log 3, 4) and are
not stated. -/
def Obligations.PowerOnState : Prop :=
  State.reset.phase = .uninit ∧ State.reset.busHeld = false ∧ State.reset.trace = [] ∧
    State.reset.csLevel = .unspecified

/-- The invariant holds at power-on. -/
def Obligations.PowerOnMeetsTheInvariant : Prop := State.reset.Inv

/-- R66, R72, R73: every step keeps the invariant: event order, line state, valid index and right command byte on the
bus, the counter's bounds, the canonical form of the buffers. The event order contains that of `INIT`'s three events,
which is the spec's own choice (R81, D15; log 16). -/
def Obligations.StepKeepsTheInvariant : Prop := ∀ s t : State, s.Inv → step s = .next t → t.Inv

/-- R66 (1): every exchange lies between chip-select low and the next high, and between bus acquisition and
release. -/
def Obligations.ExchangesLieInsideBrackets : Prop :=
  ∀ (s : State) (before after : List Event) (tx rx : Byte), s.Inv → s.trace = before ++ .xfer tx rx :: after →
    levelAfter before = .low ∧ heldAfter before = true

/-- R27, R28: `CS_LEVEL` is the level of the last `EvCsWrite`, `BUS_HELD` is 1 from `EvBusBegin` to `EvBusEnd`, and
every step keeps them so. -/
def Obligations.LineStateFollowsTheTrace : Prop :=
  ∀ s t : State, s.csLevel = levelAfter s.trace → s.busHeld = heldAfter s.trace → step s = .next t →
    t.csLevel = levelAfter t.trace ∧ t.busHeld = heldAfter t.trace

/-- R45 (3): a step that gives a response ends with the bracket closed and the block idle. -/
def Obligations.ResponseOnlyAfterTheBracket : Prop :=
  ∀ s t : State, s.Inv → step s = .next t → t.responses ≠ s.responses →
    t.phase = .idle ∧ t.busHeld = false ∧ t.csLevel = .high

/-- R24: the configuration is immutable once constructed; the parameter set is never written. -/
def Obligations.ConfigurationIsImmutable : Prop :=
  ∀ s t : State, step s = .next t →
    t.par = s.par ∧ (s.phase ≠ .uninit → t.cfgClk = s.cfgClk ∧ t.cfgCs = s.cfgCs)

/-- R84: nothing takes a constructed block back to `UNINIT`. -/
def Obligations.ConstructedForEver : Prop :=
  ∀ s t : State, s.phase ≠ .uninit → step s = .next t → t.phase ≠ .uninit

/-- R30: `TRACE` only grows; while an operation is in flight a step appends one event, or none at `GATE`, at `RESPOND`
and while the environment does not answer. -/
def Obligations.TraceGrowsByOneEventARow : Prop :=
  (∀ s t : State, step s = .next t → s.trace <+: t.trace) ∧
  ∀ s t : State, s.phase.waitsForCaller = false → step s = .next t →
    if s.phase = .gate ∨ s.phase = .respond ∨ awaitsReply s = true then t.trace = s.trace
    else ∃ e, t.trace = s.trace ++ [e]

/-! ### The rows of the sequencer -/

/-- R72, rows `C1` to `C3`. The order of the three calls is the spec's own choice (D15; log 16). -/
def Obligations.ConstructionRows : Prop :=
  ∀ s : State,
    (s.phase = .c1 → step s = .next { s with trace := s.trace ++ [.csMode s.cfgCs .output], phase := .c2 }) ∧
    (s.phase = .c2 → step s = .next
      { s with trace := s.trace ++ [.csWrite s.cfgCs .high], csLevel := .high, phase := .c3 }) ∧
    (s.phase = .c3 → step s = .next { s with trace := s.trace ++ [.busInit], phase := .respond })

/-- R68: the gate step. `DAT` is the code of `CMD`; the draws of an invalid read are any bytes, and the model's own count
of them (log 6) is left open. -/
def Obligations.GateStep : Prop :=
  ∀ s : State, s.phase = .gate →
    (s.op = .cmd → step s = .next { s with cmdb := s.dat, phase := .b1 }) ∧
    (s.op = .rd1 ∨ s.op = .rdn → s.idx.toNat < s.par.numRegisters →
      step s = .next { s with cmdb := s.par.readBase ||| s.idx, phase := .b1 }) ∧
    (s.op = .wr1 ∨ s.op = .wrn → s.idx.toNat < s.par.numRegisters →
      step s = .next { s with cmdb := s.par.writeBase ||| s.idx, phase := .b1 }) ∧
    (s.op = .rd1 → s.par.numRegisters ≤ s.idx.toNat →
      ∃ v n, step s = .next { s with status := 0xFF, value := v, draws := n, phase := .respond }) ∧
    (s.op = .rdn → s.par.numRegisters ≤ s.idx.toNat → s.rxbuf.wf = true →
      ∃ m n, step s = .next { s with status := 0xFF, rxbuf := m, draws := n, phase := .respond } ∧
        ∀ k : Byte, s.len.toNat ≤ k.toNat → m.read k = s.rxbuf.read k) ∧
    (s.op = .wr1 ∨ s.op = .wrn → s.par.numRegisters ≤ s.idx.toNat → step s = .next { s with phase := .respond })

/-- R64: `Begin()` is three downstream calls in this order and nothing else. -/
def Obligations.BeginOpensTheBracket : Prop :=
  ∀ s : State, s.phase = .b1 →
    Host.Core.run core 3 s = .next
      { s with
        trace := s.trace ++
          [.busBegin s.cfgClk .msbFirst .idleLowSampleRising, .csWrite s.cfgCs .low, .delay s.par.tSettleUs]
        busHeld := true
        csLevel := .low
        phase := .x0 }

/-- R65: `End()` is three downstream calls in this order and nothing else. -/
def Obligations.EndClosesTheBracket : Prop :=
  ∀ s : State, s.phase = .e1 →
    Host.Core.run core 3 s = .next
      { s with
        trace := s.trace ++ [.csWrite s.cfgCs .high, .delay s.par.tSettleUs, .busEnd]
        csLevel := .high
        busHeld := false
        phase := .respond }

/-- R69, R50: the command exchange. -/
def Obligations.CommandExchange : Prop :=
  ∀ (s : State) (rx : Byte) (rest : List Byte), s.phase = .x0 → s.replies = rx :: rest → s.op ≠ .init →
    step s = .next
      { s with
        trace := s.trace ++ [.xfer s.cmdb rx]
        replies := rest
        status := if s.op = .rd1 ∨ s.op = .rdn then rx else s.status
        cnt := 0
        phase :=
          if s.op = .rd1 ∨ s.op = .wr1 ∨ ((s.op = .rdn ∨ s.op = .wrn) ∧ s.len ≠ 0) then .xp else .e1 }

/-- R70: the payload exchange, entered only with `CNT` below `N`; `CMD` never reaches it. -/
def Obligations.PayloadExchange : Prop :=
  (∀ s : State, s.Inv → s.phase = .xp → s.cnt.toNat < (payloadCount s).toNat ∧ s.op ≠ .cmd) ∧
  ∀ (s : State) (rx : Byte) (rest : List Byte), s.phase = .xp → s.replies = rx :: rest →
    (s.op = .rd1 → s.cnt = 0 → step s = .next
      { s with trace := s.trace ++ [.xfer 0xFF rx], replies := rest, value := rx, cnt := 1, phase := .e1 }) ∧
    (s.op = .wr1 → s.cnt = 0 → step s = .next
      { s with trace := s.trace ++ [.xfer s.dat rx], replies := rest, cnt := 1, phase := .e1 }) ∧
    (s.op = .rdn → s.cnt.toNat < s.len.toNat → s.rxbuf.wf = true → ∃ m, step s = .next
        { s with
          trace := s.trace ++ [.xfer 0xFF rx]
          replies := rest
          rxbuf := m
          cnt := s.cnt + 1
          phase := if s.cnt.toNat + 1 < s.len.toNat then .xp else .e1 } ∧
      ∀ k, m.read k = if k = s.cnt then rx else s.rxbuf.read k) ∧
    (s.op = .wrn → s.cnt.toNat < s.len.toNat → step s = .next
      { s with
        trace := s.trace ++ [.xfer (s.txbuf.read s.cnt) rx]
        replies := rest
        cnt := s.cnt + 1
        phase := if s.cnt.toNat + 1 < s.len.toNat then .xp else .e1 })

/-- R71: the response is the operation's record, no event is appended, the block is idle; no earlier step of an
operation responds. -/
def Obligations.RespondStep : Prop :=
  (∀ s t : State, s.phase.waitsForCaller = false → s.phase ≠ .respond → step s = .next t →
    t.responses = s.responses) ∧
  ∀ s : State, s.phase = .respond →
    (s.op = .rd1 → step s = .next
      { s with responses := s.responses ++ [.statusValue s.status s.value], phase := .idle }) ∧
    (s.op = .rdn → step s = .next { s with responses := s.responses ++ [.status s.status], phase := .idle }) ∧
    (s.op ≠ .rd1 → s.op ≠ .rdn → step s = .next
      { s with responses := s.responses ++ [.completion], phase := .idle })

/-- R106: a bus that never answers leaves the block where it is, bus held and chip-select low, neither final nor a
fault. -/
def Obligations.UnansweredExchangeIsStuck : Prop :=
  ∀ s : State, s.Inv → s.stuck →
    step s = .next s ∧ ¬ s.final ∧ s.csLevel = .low ∧ s.busHeld = true

/-! ### The operations -/

/-- R81: construction, from `UNINIT`. The order of the three events is the spec's own choice (D15; log 16). That `CMDB`,
`CNT`, `STATUS` and `VALUE`, unspecified after `INIT` by R32, stay as they were is the model's choice (log 3), and the
ignored field `B` in `LEN` and `DAT` its reading (log 13). -/
def Obligations.ConstructionCompletes : Prop :=
  ∀ (s : State) (clk : Hertz) (cs b : Byte), s.phase = .uninit →
    exec (.init clk cs b) s = .next
      { s with
        cfgClk := clk
        cfgCs := cs
        op := .init
        idx := cs
        len := b
        dat := b
        csLevel := .high
        trace := s.trace ++ [.csMode cs .output, .csWrite cs .high, .busInit]
        responses := s.responses ++ [.completion]
        phase := .idle }

/-- R99: after `INIT` the block is idle, configured, deselected, and does not hold the bus. -/
def Obligations.ConstructedBlockIsReady : Prop :=
  ∀ (s : State) (clk : Hertz) (cs b : Byte), s.Inv → s.phase = .uninit →
    ∃ t, exec (.init clk cs b) s = .next t ∧ t.phase = .idle ∧ t.cfgClk = clk ∧ t.cfgCs = cs ∧
      t.csLevel = .high ∧ t.busHeld = false

/-- R83: a second `INIT` is refused: nothing changes, no event, no response. -/
def Obligations.SecondConstructionIsRefused : Prop :=
  ∀ (s : State) (clk : Hertz) (cs b : Byte), s.phase ≠ .uninit → exec (.init clk cs b) s = .next s

/-- R82: before construction every other operation is refused: nothing changes, no event, no response. -/
def Obligations.OperationBeforeConstructionIsRefused : Prop :=
  ∀ (s : State) (a b : Byte), s.phase = .uninit →
    exec (.rd1 a b) s = .next s ∧ exec (.rdn a b) s = .next s ∧ exec (.cmd a b) s = .next s ∧
      exec (.wr1 a b) s = .next s ∧ exec (.wrn a b) s = .next s

/-- R67, R105: while an operation is in flight the caller has no move; the model refuses it by name (log 10). -/
def Obligations.BusyBlockTakesNoRequest : Prop :=
  ∀ (s : State) (a b : Byte), s.phase.waitsForCaller = false →
    exec (.rd1 a b) s = .refused .blockBusy ∧ exec (.rdn a b) s = .refused .blockBusy ∧
      exec (.cmd a b) s = .refused .blockBusy ∧ exec (.wr1 a b) s = .refused .blockBusy ∧
      exec (.wrn a b) s = .refused .blockBusy

/-- R76: `RD1`, valid and invalid, and its encoding. On an invalid index the value is any byte, and the model's own
count of draws (log 6) is left open. That `LEN` and `DAT`, which `RD1` does not use, hold the ignored field `B` is the
model's reading of R54 against R18 (log 13). -/
def Obligations.ReadSingleByte : Prop :=
  (∀ w : Descriptor, fieldOpc w = 0x01 → ∃ b, decodeDescriptor w = .ok (.rd1 (fieldA w) b)) ∧
  ∀ (s : State) (idx b : Byte), s.phase = .idle →
    (idx.toNat < s.par.numRegisters → ∀ (st v : Byte) (rest : List Byte), s.replies = st :: v :: rest →
      exec (.rd1 idx b) s = .next
        { s with
          op := .rd1
          idx := idx
          len := b
          dat := b
          cmdb := s.par.readBase ||| idx
          cnt := 1
          status := st
          value := v
          csLevel := .high
          busHeld := false
          trace := s.trace ++ bracket s [.xfer (s.par.readBase ||| idx) st, .xfer 0xFF v]
          replies := rest
          responses := s.responses ++ [.statusValue st v] }) ∧
    (s.par.numRegisters ≤ idx.toNat → ∃ v n, exec (.rd1 idx b) s = .next
      { s with
        op := .rd1
        idx := idx
        len := b
        dat := b
        status := 0xFF
        value := v
        draws := n
        responses := s.responses ++ [.statusValue 0xFF v] })

/-- R77: `RDN`, valid and invalid, every length, and its encoding. On an invalid index the bytes below `len` are any
bytes, and the model's own count of draws (log 6) is left open. That `DAT`, which `RDN` does not use, holds the length
is the model's reading of R54 against R18 (log 13). -/
def Obligations.ReadMultipleBytes : Prop :=
  (∀ w : Descriptor, fieldOpc w = 0x02 → decodeDescriptor w = .ok (.rdn (fieldA w) (fieldB w))) ∧
  ∀ (s : State) (idx len : Byte), s.phase = .idle → s.rxbuf.wf = true →
    (idx.toNat < s.par.numRegisters → ∀ (st : Byte) (rs rest : List Byte),
      s.replies = st :: (rs ++ rest) → rs.length = len.toNat →
      ∃ m, exec (.rdn idx len) s = .next
          { s with
            op := .rdn
            idx := idx
            len := len
            dat := len
            cmdb := s.par.readBase ||| idx
            cnt := len
            status := st
            csLevel := .high
            busHeld := false
            rxbuf := m
            trace := s.trace ++
              bracket s (.xfer (s.par.readBase ||| idx) st :: exchangesOf (List.replicate len.toNat 0xFF) rs)
            replies := rest
            responses := s.responses ++ [.status st] } ∧
        ∀ k : Byte, m.read k = if k.toNat < len.toNat then rs.getD k.toNat 0 else s.rxbuf.read k) ∧
    (s.par.numRegisters ≤ idx.toNat → ∃ m n, exec (.rdn idx len) s = .next
          { s with
            op := .rdn
            idx := idx
            len := len
            dat := len
            status := 0xFF
            rxbuf := m
            draws := n
            responses := s.responses ++ [.status 0xFF] } ∧
        ∀ k : Byte, len.toNat ≤ k.toNat → m.read k = s.rxbuf.read k)

/-- R78: `CMD`, every code, and its encoding. That `IDX` and `LEN`, which `CMD` does not use, hold the code and the
ignored field `B` is the model's reading of R54 against R18 (log 13). -/
def Obligations.BareCommand : Prop :=
  (∀ w : Descriptor, fieldOpc w = 0x03 → ∃ b, decodeDescriptor w = .ok (.cmd (fieldA w) b)) ∧
  ∀ (s : State) (code b r : Byte) (rest : List Byte), s.phase = .idle → s.replies = r :: rest →
    exec (.cmd code b) s = .next
      { s with
        op := .cmd
        idx := code
        len := b
        dat := code
        cmdb := code
        cnt := 0
        csLevel := .high
        busHeld := false
        trace := s.trace ++ bracket s [.xfer code r]
        replies := rest
        responses := s.responses ++ [.completion] }

/-- R79: `WR1`, valid and invalid, and its encoding. That `LEN`, which `WR1` does not use, holds the value is the model's
reading of R54 against R18 (log 13). -/
def Obligations.WriteSingleByte : Prop :=
  (∀ w : Descriptor, fieldOpc w = 0x04 → decodeDescriptor w = .ok (.wr1 (fieldA w) (fieldB w))) ∧
  ∀ (s : State) (idx val : Byte), s.phase = .idle →
    (idx.toNat < s.par.numRegisters → ∀ (r0 r1 : Byte) (rest : List Byte), s.replies = r0 :: r1 :: rest →
      exec (.wr1 idx val) s = .next
        { s with
          op := .wr1
          idx := idx
          len := val
          dat := val
          cmdb := s.par.writeBase ||| idx
          cnt := 1
          csLevel := .high
          busHeld := false
          trace := s.trace ++ bracket s [.xfer (s.par.writeBase ||| idx) r0, .xfer val r1]
          replies := rest
          responses := s.responses ++ [.completion] }) ∧
    (s.par.numRegisters ≤ idx.toNat → exec (.wr1 idx val) s = .next
      { s with
        op := .wr1
        idx := idx
        len := val
        dat := val
        responses := s.responses ++ [.completion] })

/-- R80: `WRN`, valid and invalid, every length, and its encoding: `TXBUF[0 .. len-1]` in order, unmodified.
That `DAT`, which `WRN` does not use, holds the length is the model's reading of R54 against R18 (log 13). -/
def Obligations.WriteMultipleBytes : Prop :=
  (∀ w : Descriptor, fieldOpc w = 0x05 → decodeDescriptor w = .ok (.wrn (fieldA w) (fieldB w))) ∧
  ∀ (s : State) (idx len : Byte), s.phase = .idle →
    (idx.toNat < s.par.numRegisters → ∀ (r : Byte) (rs rest : List Byte),
      s.replies = r :: (rs ++ rest) → rs.length = len.toNat →
      exec (.wrn idx len) s = .next
        { s with
          op := .wrn
          idx := idx
          len := len
          dat := len
          cmdb := s.par.writeBase ||| idx
          cnt := len
          csLevel := .high
          busHeld := false
          trace := s.trace ++
            bracket s (.xfer (s.par.writeBase ||| idx) r ::
              exchangesOf ((List.range len.toNat).map fun k => s.txbuf.read (BitVec.ofNat 8 k)) rs)
          replies := rest
          responses := s.responses ++ [.completion] }) ∧
    (s.par.numRegisters ≤ idx.toNat → exec (.wrn idx len) s = .next
      { s with
        op := .wrn
        idx := idx
        len := len
        dat := len
        responses := s.responses ++ [.completion] })

/-- R51, R69: the exchange that sends the row's byte `READ_COMMAND_BASE | idx`; it is also what the block's own step
does there (log 14). -/
def Obligations.ReadCommandByteIsSent : Prop :=
  ∀ (s : State) (idx rx : Byte) (rest : List Byte),
    s.phase = .x0 → s.op = .rd1 ∨ s.op = .rdn → idx.toNat < s.par.numRegisters →
    s.cmdb = s.par.readBase ||| idx → s.replies = rx :: rest →
    exec (.wireRReg idx) s = .next
        { s with
          trace := s.trace ++ [.xfer (s.par.readBase ||| idx) rx]
          replies := rest
          status := rx
          cnt := 0
          phase := if s.op = .rd1 ∨ s.len ≠ 0 then .xp else .e1 } ∧
      step s = exec (.wireRReg idx) s

/-- R51, R69: the exchange that sends the row's byte `WRITE_COMMAND_BASE | idx`, its reply discarded; it is also what
the block's own step does there (log 14). -/
def Obligations.WriteCommandByteIsSent : Prop :=
  ∀ (s : State) (idx rx : Byte) (rest : List Byte),
    s.phase = .x0 → s.op = .wr1 ∨ s.op = .wrn → idx.toNat < s.par.numRegisters →
    s.cmdb = s.par.writeBase ||| idx → s.replies = rx :: rest →
    exec (.wireWReg idx) s = .next
        { s with
          trace := s.trace ++ [.xfer (s.par.writeBase ||| idx) rx]
          replies := rest
          cnt := 0
          phase := if s.op = .wr1 ∨ s.len ≠ 0 then .xp else .e1 } ∧
      step s = exec (.wireWReg idx) s

/-- A command byte that is not the one the block sends next is refused by name, for the block never decodes one
(R51; log 14). -/
def Obligations.CommandByteOutOfPlaceIsRefused : Prop :=
  ∀ (s : State) (idx : Byte),
    (s.phase ≠ .x0 ∨ (s.op ≠ .rd1 ∧ s.op ≠ .rdn) ∨ s.par.numRegisters ≤ idx.toNat ∨
        s.cmdb ≠ s.par.readBase ||| idx → exec (.wireRReg idx) s = .refused .commandByteNotDue) ∧
    (s.phase ≠ .x0 ∨ (s.op ≠ .wr1 ∧ s.op ≠ .wrn) ∨ s.par.numRegisters ≤ idx.toNat ∨
        s.cmdb ≠ s.par.writeBase ||| idx → exec (.wireWReg idx) s = .refused .commandByteNotDue)

/-! ### Hangs -/

/-- R74 (c), R106: an operation that passes the gate while the environment answers nothing has appended exactly the
three events before the command exchange and gives no response. -/
def Obligations.UnansweredCommandByteHangs : Prop :=
  ∀ (s : State) (i : Instr) (a : Byte), s.phase = .idle → s.replies = [] →
    ((∃ b, i = .rd1 a b) ∨ (∃ b, i = .rdn a b) ∨ (∃ b, i = .wr1 a b) ∨ (∃ b, i = .wrn a b)) ∧
        a.toNat < s.par.numRegisters ∨ (∃ b, i = .cmd a b) →
    ∃ t, exec i s = .next t ∧ t.phase = .x0 ∧ t.responses = s.responses ∧ t.csLevel = .low ∧ t.busHeld = true ∧
      t.trace = s.trace ++
        [.busBegin s.cfgClk .msbFirst .idleLowSampleRising, .csWrite s.cfgCs .low, .delay s.par.tSettleUs] ∧
      t.stuck

/-- R74 (c), R106, program P4: a multi-byte read whose payload is answered only in part has appended exactly the
events before the unanswered exchange, has filled the bytes answered, and gives no response. -/
def Obligations.PartlyAnsweredReadHangs : Prop :=
  ∀ (s : State) (idx len st : Byte) (rs : List Byte), s.phase = .idle → s.rxbuf.wf = true →
    idx.toNat < s.par.numRegisters → s.replies = st :: rs → rs.length < len.toNat →
    ∃ t, exec (.rdn idx len) s = .next t ∧ t.phase = .xp ∧ t.cnt = BitVec.ofNat 8 rs.length ∧ t.status = st ∧
      t.responses = s.responses ∧ t.csLevel = .low ∧ t.busHeld = true ∧ t.stuck ∧
      t.trace = s.trace ++
        ([.busBegin s.cfgClk .msbFirst .idleLowSampleRising, .csWrite s.cfgCs .low, .delay s.par.tSettleUs] ++
          .xfer (s.par.readBase ||| idx) st :: exchangesOf (List.replicate rs.length 0xFF) rs) ∧
      ∀ k : Byte, t.rxbuf.read k = if k.toNat < rs.length then rs.getD k.toNat 0 else s.rxbuf.read k

/-- R74 (c), R106: a multi-byte write whose payload is answered only in part has appended exactly the events before the
unanswered exchange and gives no response. -/
def Obligations.PartlyAnsweredWriteHangs : Prop :=
  ∀ (s : State) (idx len st : Byte) (rs : List Byte), s.phase = .idle →
    idx.toNat < s.par.numRegisters → s.replies = st :: rs → rs.length < len.toNat →
    ∃ t, exec (.wrn idx len) s = .next t ∧ t.phase = .xp ∧ t.cnt = BitVec.ofNat 8 rs.length ∧ t.status = s.status ∧
      t.responses = s.responses ∧ t.csLevel = .low ∧ t.busHeld = true ∧ t.stuck ∧
      t.trace = s.trace ++
        ([.busBegin s.cfgClk .msbFirst .idleLowSampleRising, .csWrite s.cfgCs .low, .delay s.par.tSettleUs] ++
          .xfer (s.par.writeBase ||| idx) st ::
            exchangesOf ((List.range rs.length).map fun k => s.txbuf.read (BitVec.ofNat 8 k)) rs)

/-- R74 (c), R106: a single read or write whose second exchange is not answered has appended exactly the events before
it and gives no response; the read has its status. -/
def Obligations.PartlyAnsweredSingleHangs : Prop :=
  ∀ (s : State) (idx b st : Byte), s.phase = .idle → idx.toNat < s.par.numRegisters → s.replies = [st] →
    (∃ t, exec (.rd1 idx b) s = .next t ∧ t.phase = .xp ∧ t.cnt = 0 ∧ t.status = st ∧ t.value = s.value ∧
      t.responses = s.responses ∧ t.csLevel = .low ∧ t.busHeld = true ∧ t.stuck ∧
      t.trace = s.trace ++
        [.busBegin s.cfgClk .msbFirst .idleLowSampleRising, .csWrite s.cfgCs .low, .delay s.par.tSettleUs,
          .xfer (s.par.readBase ||| idx) st]) ∧
    ∃ t, exec (.wr1 idx b) s = .next t ∧ t.phase = .xp ∧ t.cnt = 0 ∧ t.status = s.status ∧ t.value = s.value ∧
      t.responses = s.responses ∧ t.csLevel = .low ∧ t.busHeld = true ∧ t.stuck ∧
      t.trace = s.trace ++
        [.busBegin s.cfgClk .msbFirst .idleLowSampleRising, .csWrite s.cfgCs .low, .delay s.par.tSettleUs,
          .xfer (s.par.writeBase ||| idx) st]

/-! ### Frames -/

/-- What a read leaves unchanged: parameters, configuration, transmit buffer, the caller's moves; `RD1` the receive
buffer, `RDN` its bytes from `len` on and `VALUE` (R76, R77). -/
def Obligations.ReadFrame : Prop :=
  ∀ (s t : State) (idx b : Byte), s.rxbuf.wf = true →
    (exec (.rd1 idx b) s = .next t →
      t.par = s.par ∧ t.cfgClk = s.cfgClk ∧ t.cfgCs = s.cfgCs ∧ t.caller = s.caller ∧
        (∀ k, t.txbuf.read k = s.txbuf.read k) ∧ ∀ k, t.rxbuf.read k = s.rxbuf.read k) ∧
    (exec (.rdn idx b) s = .next t →
      t.par = s.par ∧ t.cfgClk = s.cfgClk ∧ t.cfgCs = s.cfgCs ∧ t.caller = s.caller ∧ t.value = s.value ∧
        (∀ k, t.txbuf.read k = s.txbuf.read k) ∧
        ∀ k : Byte, b.toNat ≤ k.toNat → t.rxbuf.read k = s.rxbuf.read k)

/-- What `CMD` leaves unchanged: parameters, configuration, both result latches, both buffers, the caller's moves and
the draws (R78). -/
def Obligations.CommandFrame : Prop :=
  ∀ (s t : State) (code b : Byte), exec (.cmd code b) s = .next t →
    t.par = s.par ∧ t.cfgClk = s.cfgClk ∧ t.cfgCs = s.cfgCs ∧ t.status = s.status ∧ t.value = s.value ∧
      t.caller = s.caller ∧ t.draws = s.draws ∧ (∀ k, t.txbuf.read k = s.txbuf.read k) ∧
      ∀ k, t.rxbuf.read k = s.rxbuf.read k

/-- What a write leaves unchanged, valid or not: parameters, configuration, both result latches, both buffers, the
caller's moves and the draws (R79, R80). -/
def Obligations.WriteFrame : Prop :=
  ∀ (s t : State) (i : Instr) (idx b : Byte), i = .wr1 idx b ∨ i = .wrn idx b → exec i s = .next t →
    t.par = s.par ∧ t.cfgClk = s.cfgClk ∧ t.cfgCs = s.cfgCs ∧ t.status = s.status ∧ t.value = s.value ∧
      t.caller = s.caller ∧ t.draws = s.draws ∧ (∀ k, t.txbuf.read k = s.txbuf.read k) ∧
      ∀ k, t.rxbuf.read k = s.rxbuf.read k

/-- What `INIT` leaves unchanged: parameters, `BUS_HELD`, both buffers, the replies, the caller's moves and the draws
(R81). That it leaves the framer and result latches `CMDB`, `CNT`, `STATUS` and `VALUE` unchanged is the model's choice,
where R32 calls them unspecified after `INIT` (log 3). -/
def Obligations.ConstructionFrame : Prop :=
  ∀ (s t : State) (clk : Hertz) (cs b : Byte), exec (.init clk cs b) s = .next t →
    t.par = s.par ∧ t.cmdb = s.cmdb ∧ t.cnt = s.cnt ∧ t.status = s.status ∧ t.value = s.value ∧
      t.busHeld = s.busHeld ∧ t.replies = s.replies ∧ t.caller = s.caller ∧ t.draws = s.draws ∧
      (∀ k, t.txbuf.read k = s.txbuf.read k) ∧ ∀ k, t.rxbuf.read k = s.rxbuf.read k

/-- What the exchange of a command byte leaves unchanged: everything but `TRACE`, the replies, `CNT`, `PHASE` and, for
a read, `STATUS` (R69). -/
def Obligations.CommandByteFrame : Prop :=
  ∀ (s t : State) (i : Instr) (idx : Byte), i = .wireRReg idx ∨ i = .wireWReg idx → exec i s = .next t →
    t.par = s.par ∧ t.cfgClk = s.cfgClk ∧ t.cfgCs = s.cfgCs ∧ t.op = s.op ∧ t.idx = s.idx ∧ t.len = s.len ∧
      t.dat = s.dat ∧ t.cmdb = s.cmdb ∧ t.value = s.value ∧ t.csLevel = s.csLevel ∧ t.busHeld = s.busHeld ∧
      t.responses = s.responses ∧ t.caller = s.caller ∧ t.draws = s.draws ∧
      (i = .wireWReg idx → t.status = s.status) ∧ (∀ k, t.txbuf.read k = s.txbuf.read k) ∧
      ∀ k, t.rxbuf.read k = s.rxbuf.read k

/-! ### Rules over all operations -/

/-- R86: an invalid index: no event, chip-select, bus and configuration unchanged, no reply used, a normal response of
the kind the table gives, and the block idle for the next operation. -/
def Obligations.InvalidIndexLeavesTheBusAlone : Prop :=
  ∀ (s : State) (idx b : Byte), s.phase = .idle → s.rxbuf.wf = true → s.par.numRegisters ≤ idx.toNat →
    ∀ i, i = .rd1 idx b ∨ i = .rdn idx b ∨ i = .wr1 idx b ∨ i = .wrn idx b →
      ∃ t, exec i s = .next t ∧ t.phase = .idle ∧ t.trace = s.trace ∧ t.csLevel = s.csLevel ∧
        t.busHeld = s.busHeld ∧ t.cfgClk = s.cfgClk ∧ t.cfgCs = s.cfgCs ∧ t.replies = s.replies ∧
        (∀ k, t.txbuf.read k = s.txbuf.read k) ∧
        (∀ k : Byte, i ≠ .rdn idx b ∨ b.toNat ≤ k.toNat → t.rxbuf.read k = s.rxbuf.read k) ∧
        (i = .rd1 idx b → ∃ v, t.responses = s.responses ++ [.statusValue 0xFF v]) ∧
        (i = .rdn idx b → t.responses = s.responses ++ [.status 0xFF]) ∧
        (i = .wr1 idx b ∨ i = .wrn idx b → t.responses = s.responses ++ [.completion])

/-- R87: a status other than 0xFF proves the index valid and the bus used; 0xFF proves nothing: a valid read may respond
with it, after 8 or `7 + len` events, and an invalid one does, after none. -/
def Obligations.SentinelIsAmbiguous : Prop :=
  (∀ (s t : State) (idx b st v : Byte), s.phase = .idle → exec (.rd1 idx b) s = .next t →
    t.responses = s.responses ++ [.statusValue st v] → st ≠ 0xFF →
    idx.toNat < s.par.numRegisters ∧ t.trace.length = s.trace.length + 8) ∧
  (∀ (s t : State) (idx len st : Byte), s.phase = .idle → exec (.rdn idx len) s = .next t →
    t.responses = s.responses ++ [.status st] → st ≠ 0xFF →
    idx.toNat < s.par.numRegisters ∧ t.trace.length = s.trace.length + (7 + len.toNat)) ∧
  (∀ (s : State) (idx b v : Byte) (rest : List Byte), s.phase = .idle → idx.toNat < s.par.numRegisters →
    s.replies = 0xFF :: v :: rest →
    ∃ t, exec (.rd1 idx b) s = .next t ∧ t.responses = s.responses ++ [.statusValue 0xFF v] ∧
      t.trace.length = s.trace.length + 8) ∧
  (∀ (s : State) (idx len : Byte) (rs : List Byte), s.phase = .idle → idx.toNat < s.par.numRegisters →
    s.rxbuf.wf = true → s.replies = 0xFF :: rs → len.toNat ≤ rs.length →
    ∃ t, exec (.rdn idx len) s = .next t ∧ t.responses = s.responses ++ [.status 0xFF] ∧
      t.trace.length = s.trace.length + (7 + len.toNat)) ∧
  ∀ (s : State) (idx b : Byte), s.phase = .idle → s.par.numRegisters ≤ idx.toNat →
    (∃ t v, exec (.rd1 idx b) s = .next t ∧ t.responses = s.responses ++ [.statusValue 0xFF v] ∧
      t.trace = s.trace) ∧
    ∃ t, exec (.rdn idx b) s = .next t ∧ t.responses = s.responses ++ [.status 0xFF] ∧ t.trace = s.trace

/-- R75, R106: under the fairness premise (a reply for every exchange) each of the five operations completes: one
response, block idle, bracket closed. -/
def Obligations.AnsweredOperationsComplete : Prop :=
  ∀ (s : State) (i : Instr) (a b : Byte), s.Inv → s.phase = .idle →
    i = .rd1 a b ∨ i = .rdn a b ∨ i = .cmd a b ∨ i = .wr1 a b ∨ i = .wrn a b →
    256 ≤ s.replies.length →
    ∃ t r, exec i s = .next t ∧ t.phase = .idle ∧ t.responses = s.responses ++ [r] ∧ t.csLevel = .high ∧
      t.busHeld = false

/-- R40: the number of exchanges of a completed operation: with a valid index for the four indexed operations, with
every code for `CMD`. -/
def Obligations.ExchangeCounts : Prop :=
  ∀ (s t : State) (a b : Byte), s.phase = .idle → t.phase = .idle →
    (exec (.cmd a b) s = .next t → exchanges t.trace = exchanges s.trace + 1) ∧
    (a.toNat < s.par.numRegisters →
      (exec (.rd1 a b) s = .next t → exchanges t.trace = exchanges s.trace + 2) ∧
      (exec (.rdn a b) s = .next t → exchanges t.trace = exchanges s.trace + (1 + b.toNat)) ∧
      (exec (.wr1 a b) s = .next t → exchanges t.trace = exchanges s.trace + 2) ∧
      (exec (.wrn a b) s = .next t → exchanges t.trace = exchanges s.trace + (1 + b.toNat)))

/-- R31: the events and the responses of an operation are a function of its operands, the configuration, the
parameters, the transmit buffer and the replies (and of the draws, which are free values; log 6): nothing an earlier
operation left in a latch matters. -/
def Obligations.StatelessBetweenOperations : Prop :=
  ∀ (s₁ s₂ t₁ t₂ : State) (i : Instr), s₁.phase = .idle → s₂.phase = .idle →
    s₁.par = s₂.par → s₁.cfgClk = s₂.cfgClk → s₁.cfgCs = s₂.cfgCs →
    (∀ k, s₁.txbuf.read k = s₂.txbuf.read k) → s₁.replies = s₂.replies → s₁.draws = s₂.draws →
    exec i s₁ = .next t₁ → exec i s₂ = .next t₂ →
    ∃ es rs, t₁.trace = s₁.trace ++ es ∧ t₂.trace = s₂.trace ++ es ∧
      t₁.responses = s₁.responses ++ rs ∧ t₂.responses = s₂.responses ++ rs

/-- R77 corner case 2: a read of length 1 produces exactly the events of `RD1`. -/
def Obligations.ReadOfLengthOneIsSingleRead : Prop :=
  ∀ (s t u : State) (idx b : Byte), s.phase = .idle →
    exec (.rd1 idx b) s = .next t → exec (.rdn idx 1) s = .next u → t.trace = u.trace

/-- R80 corner case 2: a write of length 1 produces exactly the events of `WR1` with the first byte of `TXBUF`. -/
def Obligations.WriteOfLengthOneIsSingleWrite : Prop :=
  ∀ (s t u : State) (idx : Byte), s.phase = .idle →
    exec (.wr1 idx (s.txbuf.read 0)) s = .next t → exec (.wrn idx 1) s = .next u → t.trace = u.trace

/-- R54: a field an operation does not use is ignored, whatever it holds: the field `B` of `RD1`, `CMD` and `INIT`
changes no event, no response, and neither the phase nor the replies left. -/
def Obligations.IgnoredFieldHasNoEffect : Prop :=
  ∀ (s t u : State) (i j : Instr) (a b c : Byte) (clk : Hertz),
    i = .rd1 a b ∧ j = .rd1 a c ∨ i = .cmd a b ∧ j = .cmd a c ∨ i = .init clk a b ∧ j = .init clk a c →
    exec i s = .next t → exec j s = .next u →
    t.trace = u.trace ∧ t.responses = u.responses ∧ t.phase = u.phase ∧ t.replies = u.replies

/-- R101: a state in any phase but `IDLE` is not final, and a final one has chip-select high and the bus released; a
step that gives a response while the caller has no request left ends the run. -/
def Obligations.RunEndsWithTheLastResponse : Prop :=
  (∀ s : State, s.final → s.phase = .idle) ∧
  (∀ s : State, s.Inv → s.final → s.csLevel = .high ∧ s.busHeld = false) ∧
  ∀ s t : State, s.Inv → step s = .next t → t.responses ≠ s.responses → (∀ m ∈ t.caller, isRequest m = false) → t.final

/-- R60 with R57, R82, R83: a request the block refuses (a reserved code, an operation before `INIT`, a second `INIT`)
is never answered, so the caller, which issues the next only after the response, waits for ever: no step changes the
state, and the run has not ended. The form of the wait is the model's (log 9). -/
def Obligations.RefusedRequestIsNeverFollowed : Prop :=
  ∀ (s : State) (w : Descriptor) (rest : List CallerMove) (n : Nat),
    s.phase.waitsForCaller = true → s.caller = .request w :: rest →
    0x06 ≤ fieldOpc w ∨ ¬ (s.phase = .uninit ↔ fieldOpc w = 0) →
    Host.Core.run core n s = .next s ∧ ¬ s.final

/-- R96, R47: under the launch premises at most one of several blocks holds the bus. -/
def Obligations.OneBlockHoldsTheBus : Prop :=
  ∀ blocks : List State, LaunchPremises blocks → (∀ s ∈ blocks, s.Inv) →
    blocks.Pairwise fun s t => s.busHeld = false ∨ t.busHeld = false
end

