-- ==== Sys2Proof/Laws/Memory.lean ====
section
/-! SUPPORT. What a byte read gives after a byte write, and that every memory operation keeps the canonical form. -/

namespace Sys2Proof.Machine

theorem wfFrom_cons {lo a : Nat} {v : Byte} {rest : Memory} :
    Memory.wfFrom lo ((a, v) :: rest) = true ↔
      (lo ≤ a ∧ a < 256 ∧ v ≠ unlistedByte) ∧ Memory.wfFrom (a + 1) rest = true := by
  simp [Memory.wfFrom]

theorem wfFrom_mono {lo lo' : Nat} {m : Memory} (h : Memory.wfFrom lo m = true) (hl : lo' ≤ lo) :
    Memory.wfFrom lo' m = true := by
  cases m with
  | nil => rfl
  | cons c rest =>
    rw [wfFrom_cons] at h ⊢
    exact ⟨⟨hl.trans h.1.1, h.1.2⟩, h.2⟩

/-- A byte below the bound is not listed. -/
theorem lookup_of_lt {lo k : Nat} {m : Memory} (h : Memory.wfFrom lo m = true) (hk : k < lo) :
    Memory.lookup m k = unlistedByte := by
  induction m generalizing lo with
  | nil => rfl
  | cons c rest ih =>
    obtain ⟨⟨ha, -, -⟩, hr⟩ := wfFrom_cons.1 h
    have hne : k ≠ c.1 := by omega
    simp [Memory.lookup, hne, ih hr (by omega)]

theorem lookup_cell_append (k j : Nat) (v : Byte) (m : Memory) :
    Memory.lookup (Memory.cell k v ++ m) j = if j = k ∧ v ≠ unlistedByte then v else Memory.lookup m j := by
  unfold Memory.cell
  by_cases hv : v = unlistedByte
  · simp [hv]
  · by_cases hj : j = k <;> simp [hv, hj, Memory.lookup]

theorem wfFrom_cell_append {lo k : Nat} {v : Byte} {m : Memory} (hm : Memory.wfFrom (k + 1) m = true) (hl : lo ≤ k)
    (hk : k < 256) : Memory.wfFrom lo (Memory.cell k v ++ m) = true := by
  unfold Memory.cell
  by_cases hv : v = unlistedByte
  · simpa [hv] using wfFrom_mono hm (by omega)
  · simpa [hv] using wfFrom_cons.2 ⟨⟨hl, hk, hv⟩, hm⟩

theorem insert_wfFrom {lo k : Nat} {v : Byte} {m : Memory} (h : Memory.wfFrom lo m = true) (hl : lo ≤ k)
    (hk : k < 256) : Memory.wfFrom lo (Memory.insert m k v) = true := by
  induction m generalizing lo with
  | nil => simpa [Memory.insert] using wfFrom_cell_append (v := v) (m := []) rfl hl hk
  | cons c rest ih =>
    obtain ⟨⟨ha, ha', hx⟩, hr⟩ := wfFrom_cons.1 h
    unfold Memory.insert
    split
    · exact wfFrom_cell_append (wfFrom_cons.2 ⟨⟨by omega, ha', hx⟩, hr⟩) hl hk
    · split
      · next hka => exact wfFrom_cell_append (hka ▸ hr) hl hk
      · exact wfFrom_cons.2 ⟨⟨ha, ha', hx⟩, ih hr (by omega)⟩

theorem lookup_insert {lo k j : Nat} {v : Byte} {m : Memory} (h : Memory.wfFrom lo m = true) :
    Memory.lookup (Memory.insert m k v) j = if j = k then v else Memory.lookup m j := by
  induction m generalizing lo with
  | nil =>
    have := lookup_cell_append k j v []
    by_cases hj : j = k <;> by_cases hv : v = unlistedByte <;>
      simp_all [Memory.insert, Memory.lookup]
  | cons c rest ih =>
    obtain ⟨⟨ha, ha', hx⟩, hr⟩ := wfFrom_cons.1 h
    unfold Memory.insert
    split
    · next hlt =>
      rw [lookup_cell_append]
      by_cases hj : j = k
      · subst hj
        have hu : Memory.lookup (c :: rest) j = unlistedByte :=
          lookup_of_lt (lo := c.1) (wfFrom_cons.2 ⟨⟨le_rfl, ha', hx⟩, hr⟩) hlt
        by_cases hv : v = unlistedByte <;> simp [hv, hu]
      · simp [hj]
    · split
      · next hka =>
        rw [lookup_cell_append]
        by_cases hj : j = k
        · subst hj
          have hu : Memory.lookup rest j = unlistedByte := lookup_of_lt hr (by omega)
          by_cases hv : v = unlistedByte <;> simp [hv, hu]
        · have hja : j ≠ c.1 := hka ▸ hj
          simp [hj, Memory.lookup, hja]
      · next hnlt hne =>
        by_cases hj : j = c.1
        · have : c.1 ≠ k := fun h => hne h.symm
          simp [Memory.lookup, hj, this]
        · simp [Memory.lookup, hj, ih hr]

theorem write_wf {m : Memory} {k v : Byte} (h : m.wf = true) : (m.write k v).wf = true :=
  insert_wfFrom h (Nat.zero_le _) k.isLt

/-- A byte reads as written; every other byte reads as before. -/
theorem read_write {m : Memory} {k v j : Byte} (h : m.wf = true) :
    (m.write k v).read j = if j = k then v else m.read j := by
  simp only [Memory.read, Memory.write, lookup_insert h, BitVec.toNat_inj]

theorem storeByte_wf {b : Buffer} {k v : Byte} {s : State} (ht : s.txbuf.wf = true) (hr : s.rxbuf.wf = true) :
    (storeByte b k v s).txbuf.wf = true ∧ (storeByte b k v s).rxbuf.wf = true := by
  cases b
  · exact ⟨write_wf ht, hr⟩
  · exact ⟨ht, write_wf hr⟩

theorem reset_memory_wf : State.reset.txbuf.wf = true ∧ State.reset.rxbuf.wf = true := ⟨rfl, rfl⟩

/-- All that drawing into the receive buffer does: it replaces the buffer and advances the count of draws. -/
theorem drawIntoRx_spec (n : Nat) (s : State) :
    ∃ m, drawIntoRx n s = { s with rxbuf := m, draws := s.draws + n } ∧
      (s.rxbuf.wf = true → m.wf = true ∧ ∀ k : Byte, n ≤ k.toNat → m.read k = s.rxbuf.read k) := by
  induction n with
  | zero => exact ⟨s.rxbuf, rfl, fun h => ⟨h, fun _ _ => rfl⟩⟩
  | succ n ih =>
    obtain ⟨m, hm, hw⟩ := ih
    refine ⟨m.write (BitVec.ofNat 8 n) (Config.draw8 (s.draws + n)), ?_, fun h => ⟨write_wf (hw h).1, fun k hk => ?_⟩⟩
    · simp [drawIntoRx, hm, nextDraw, Nat.add_assoc]
    · rw [read_write (hw h).1, if_neg, (hw h).2 k (by omega)]
      rintro rfl
      simp only [BitVec.toNat_ofNat] at hk
      have := Nat.mod_le n (2 ^ 8)
      omega

end Sys2Proof.Machine
end

