-- ==== Sys2Proof/Laws/State.lean ====
section
/-! SUPPORT. One lemma for each field after each update, true by rfl, so that no proof unfolds a record update. -/

namespace Sys2Proof.Machine

variable (s : State)

@[simp] theorem emit_par (e : Event) : (emit e s).par = s.par := rfl
@[simp] theorem emit_cfgClk (e : Event) : (emit e s).cfgClk = s.cfgClk := rfl
@[simp] theorem emit_cfgCs (e : Event) : (emit e s).cfgCs = s.cfgCs := rfl
@[simp] theorem emit_phase (e : Event) : (emit e s).phase = s.phase := rfl
@[simp] theorem emit_op (e : Event) : (emit e s).op = s.op := rfl
@[simp] theorem emit_idx (e : Event) : (emit e s).idx = s.idx := rfl
@[simp] theorem emit_len (e : Event) : (emit e s).len = s.len := rfl
@[simp] theorem emit_dat (e : Event) : (emit e s).dat = s.dat := rfl
@[simp] theorem emit_cmdb (e : Event) : (emit e s).cmdb = s.cmdb := rfl
@[simp] theorem emit_cnt (e : Event) : (emit e s).cnt = s.cnt := rfl
@[simp] theorem emit_status (e : Event) : (emit e s).status = s.status := rfl
@[simp] theorem emit_value (e : Event) : (emit e s).value = s.value := rfl
@[simp] theorem emit_csLevel (e : Event) : (emit e s).csLevel = s.csLevel := rfl
@[simp] theorem emit_busHeld (e : Event) : (emit e s).busHeld = s.busHeld := rfl
@[simp] theorem emit_txbuf (e : Event) : (emit e s).txbuf = s.txbuf := rfl
@[simp] theorem emit_rxbuf (e : Event) : (emit e s).rxbuf = s.rxbuf := rfl
@[simp] theorem emit_trace (e : Event) : (emit e s).trace = s.trace ++ [e] := rfl
@[simp] theorem emit_responses (e : Event) : (emit e s).responses = s.responses := rfl
@[simp] theorem emit_caller (e : Event) : (emit e s).caller = s.caller := rfl
@[simp] theorem emit_replies (e : Event) : (emit e s).replies = s.replies := rfl
@[simp] theorem emit_draws (e : Event) : (emit e s).draws = s.draws := rfl

@[simp] theorem csMode_par (sel : Byte) (mode : LineMode) : (csMode sel mode s).par = s.par := rfl
@[simp] theorem csMode_cfgClk (sel : Byte) (mode : LineMode) : (csMode sel mode s).cfgClk = s.cfgClk := rfl
@[simp] theorem csMode_cfgCs (sel : Byte) (mode : LineMode) : (csMode sel mode s).cfgCs = s.cfgCs := rfl
@[simp] theorem csMode_phase (sel : Byte) (mode : LineMode) : (csMode sel mode s).phase = s.phase := rfl
@[simp] theorem csMode_op (sel : Byte) (mode : LineMode) : (csMode sel mode s).op = s.op := rfl
@[simp] theorem csMode_idx (sel : Byte) (mode : LineMode) : (csMode sel mode s).idx = s.idx := rfl
@[simp] theorem csMode_len (sel : Byte) (mode : LineMode) : (csMode sel mode s).len = s.len := rfl
@[simp] theorem csMode_dat (sel : Byte) (mode : LineMode) : (csMode sel mode s).dat = s.dat := rfl
@[simp] theorem csMode_cmdb (sel : Byte) (mode : LineMode) : (csMode sel mode s).cmdb = s.cmdb := rfl
@[simp] theorem csMode_cnt (sel : Byte) (mode : LineMode) : (csMode sel mode s).cnt = s.cnt := rfl
@[simp] theorem csMode_status (sel : Byte) (mode : LineMode) : (csMode sel mode s).status = s.status := rfl
@[simp] theorem csMode_value (sel : Byte) (mode : LineMode) : (csMode sel mode s).value = s.value := rfl
@[simp] theorem csMode_csLevel (sel : Byte) (mode : LineMode) : (csMode sel mode s).csLevel = s.csLevel := rfl
@[simp] theorem csMode_busHeld (sel : Byte) (mode : LineMode) : (csMode sel mode s).busHeld = s.busHeld := rfl
@[simp] theorem csMode_txbuf (sel : Byte) (mode : LineMode) : (csMode sel mode s).txbuf = s.txbuf := rfl
@[simp] theorem csMode_rxbuf (sel : Byte) (mode : LineMode) : (csMode sel mode s).rxbuf = s.rxbuf := rfl
@[simp] theorem csMode_trace (sel : Byte) (mode : LineMode) : (csMode sel mode s).trace = s.trace ++ [.csMode sel mode] := rfl
@[simp] theorem csMode_responses (sel : Byte) (mode : LineMode) : (csMode sel mode s).responses = s.responses := rfl
@[simp] theorem csMode_caller (sel : Byte) (mode : LineMode) : (csMode sel mode s).caller = s.caller := rfl
@[simp] theorem csMode_replies (sel : Byte) (mode : LineMode) : (csMode sel mode s).replies = s.replies := rfl
@[simp] theorem csMode_draws (sel : Byte) (mode : LineMode) : (csMode sel mode s).draws = s.draws := rfl

@[simp] theorem csWrite_par (sel : Byte) (level : Level) : (csWrite sel level s).par = s.par := rfl
@[simp] theorem csWrite_cfgClk (sel : Byte) (level : Level) : (csWrite sel level s).cfgClk = s.cfgClk := rfl
@[simp] theorem csWrite_cfgCs (sel : Byte) (level : Level) : (csWrite sel level s).cfgCs = s.cfgCs := rfl
@[simp] theorem csWrite_phase (sel : Byte) (level : Level) : (csWrite sel level s).phase = s.phase := rfl
@[simp] theorem csWrite_op (sel : Byte) (level : Level) : (csWrite sel level s).op = s.op := rfl
@[simp] theorem csWrite_idx (sel : Byte) (level : Level) : (csWrite sel level s).idx = s.idx := rfl
@[simp] theorem csWrite_len (sel : Byte) (level : Level) : (csWrite sel level s).len = s.len := rfl
@[simp] theorem csWrite_dat (sel : Byte) (level : Level) : (csWrite sel level s).dat = s.dat := rfl
@[simp] theorem csWrite_cmdb (sel : Byte) (level : Level) : (csWrite sel level s).cmdb = s.cmdb := rfl
@[simp] theorem csWrite_cnt (sel : Byte) (level : Level) : (csWrite sel level s).cnt = s.cnt := rfl
@[simp] theorem csWrite_status (sel : Byte) (level : Level) : (csWrite sel level s).status = s.status := rfl
@[simp] theorem csWrite_value (sel : Byte) (level : Level) : (csWrite sel level s).value = s.value := rfl
@[simp] theorem csWrite_csLevel (sel : Byte) (level : Level) : (csWrite sel level s).csLevel = csLevelOf level := rfl
@[simp] theorem csWrite_busHeld (sel : Byte) (level : Level) : (csWrite sel level s).busHeld = s.busHeld := rfl
@[simp] theorem csWrite_txbuf (sel : Byte) (level : Level) : (csWrite sel level s).txbuf = s.txbuf := rfl
@[simp] theorem csWrite_rxbuf (sel : Byte) (level : Level) : (csWrite sel level s).rxbuf = s.rxbuf := rfl
@[simp] theorem csWrite_trace (sel : Byte) (level : Level) : (csWrite sel level s).trace = s.trace ++ [.csWrite sel level] := rfl
@[simp] theorem csWrite_responses (sel : Byte) (level : Level) : (csWrite sel level s).responses = s.responses := rfl
@[simp] theorem csWrite_caller (sel : Byte) (level : Level) : (csWrite sel level s).caller = s.caller := rfl
@[simp] theorem csWrite_replies (sel : Byte) (level : Level) : (csWrite sel level s).replies = s.replies := rfl
@[simp] theorem csWrite_draws (sel : Byte) (level : Level) : (csWrite sel level s).draws = s.draws := rfl

@[simp] theorem busInit_par : (busInit s).par = s.par := rfl
@[simp] theorem busInit_cfgClk : (busInit s).cfgClk = s.cfgClk := rfl
@[simp] theorem busInit_cfgCs : (busInit s).cfgCs = s.cfgCs := rfl
@[simp] theorem busInit_phase : (busInit s).phase = s.phase := rfl
@[simp] theorem busInit_op : (busInit s).op = s.op := rfl
@[simp] theorem busInit_idx : (busInit s).idx = s.idx := rfl
@[simp] theorem busInit_len : (busInit s).len = s.len := rfl
@[simp] theorem busInit_dat : (busInit s).dat = s.dat := rfl
@[simp] theorem busInit_cmdb : (busInit s).cmdb = s.cmdb := rfl
@[simp] theorem busInit_cnt : (busInit s).cnt = s.cnt := rfl
@[simp] theorem busInit_status : (busInit s).status = s.status := rfl
@[simp] theorem busInit_value : (busInit s).value = s.value := rfl
@[simp] theorem busInit_csLevel : (busInit s).csLevel = s.csLevel := rfl
@[simp] theorem busInit_busHeld : (busInit s).busHeld = s.busHeld := rfl
@[simp] theorem busInit_txbuf : (busInit s).txbuf = s.txbuf := rfl
@[simp] theorem busInit_rxbuf : (busInit s).rxbuf = s.rxbuf := rfl
@[simp] theorem busInit_trace : (busInit s).trace = s.trace ++ [.busInit] := rfl
@[simp] theorem busInit_responses : (busInit s).responses = s.responses := rfl
@[simp] theorem busInit_caller : (busInit s).caller = s.caller := rfl
@[simp] theorem busInit_replies : (busInit s).replies = s.replies := rfl
@[simp] theorem busInit_draws : (busInit s).draws = s.draws := rfl

@[simp] theorem busBegin_par (clk : Hertz) (order : BitOrder) (mode : ClockMode) : (busBegin clk order mode s).par = s.par := rfl
@[simp] theorem busBegin_cfgClk (clk : Hertz) (order : BitOrder) (mode : ClockMode) : (busBegin clk order mode s).cfgClk = s.cfgClk := rfl
@[simp] theorem busBegin_cfgCs (clk : Hertz) (order : BitOrder) (mode : ClockMode) : (busBegin clk order mode s).cfgCs = s.cfgCs := rfl
@[simp] theorem busBegin_phase (clk : Hertz) (order : BitOrder) (mode : ClockMode) : (busBegin clk order mode s).phase = s.phase := rfl
@[simp] theorem busBegin_op (clk : Hertz) (order : BitOrder) (mode : ClockMode) : (busBegin clk order mode s).op = s.op := rfl
@[simp] theorem busBegin_idx (clk : Hertz) (order : BitOrder) (mode : ClockMode) : (busBegin clk order mode s).idx = s.idx := rfl
@[simp] theorem busBegin_len (clk : Hertz) (order : BitOrder) (mode : ClockMode) : (busBegin clk order mode s).len = s.len := rfl
@[simp] theorem busBegin_dat (clk : Hertz) (order : BitOrder) (mode : ClockMode) : (busBegin clk order mode s).dat = s.dat := rfl
@[simp] theorem busBegin_cmdb (clk : Hertz) (order : BitOrder) (mode : ClockMode) : (busBegin clk order mode s).cmdb = s.cmdb := rfl
@[simp] theorem busBegin_cnt (clk : Hertz) (order : BitOrder) (mode : ClockMode) : (busBegin clk order mode s).cnt = s.cnt := rfl
@[simp] theorem busBegin_status (clk : Hertz) (order : BitOrder) (mode : ClockMode) : (busBegin clk order mode s).status = s.status := rfl
@[simp] theorem busBegin_value (clk : Hertz) (order : BitOrder) (mode : ClockMode) : (busBegin clk order mode s).value = s.value := rfl
@[simp] theorem busBegin_csLevel (clk : Hertz) (order : BitOrder) (mode : ClockMode) : (busBegin clk order mode s).csLevel = s.csLevel := rfl
@[simp] theorem busBegin_busHeld (clk : Hertz) (order : BitOrder) (mode : ClockMode) : (busBegin clk order mode s).busHeld = true := rfl
@[simp] theorem busBegin_txbuf (clk : Hertz) (order : BitOrder) (mode : ClockMode) : (busBegin clk order mode s).txbuf = s.txbuf := rfl
@[simp] theorem busBegin_rxbuf (clk : Hertz) (order : BitOrder) (mode : ClockMode) : (busBegin clk order mode s).rxbuf = s.rxbuf := rfl
@[simp] theorem busBegin_trace (clk : Hertz) (order : BitOrder) (mode : ClockMode) : (busBegin clk order mode s).trace = s.trace ++ [.busBegin clk order mode] := rfl
@[simp] theorem busBegin_responses (clk : Hertz) (order : BitOrder) (mode : ClockMode) : (busBegin clk order mode s).responses = s.responses := rfl
@[simp] theorem busBegin_caller (clk : Hertz) (order : BitOrder) (mode : ClockMode) : (busBegin clk order mode s).caller = s.caller := rfl
@[simp] theorem busBegin_replies (clk : Hertz) (order : BitOrder) (mode : ClockMode) : (busBegin clk order mode s).replies = s.replies := rfl
@[simp] theorem busBegin_draws (clk : Hertz) (order : BitOrder) (mode : ClockMode) : (busBegin clk order mode s).draws = s.draws := rfl

@[simp] theorem busEnd_par : (busEnd s).par = s.par := rfl
@[simp] theorem busEnd_cfgClk : (busEnd s).cfgClk = s.cfgClk := rfl
@[simp] theorem busEnd_cfgCs : (busEnd s).cfgCs = s.cfgCs := rfl
@[simp] theorem busEnd_phase : (busEnd s).phase = s.phase := rfl
@[simp] theorem busEnd_op : (busEnd s).op = s.op := rfl
@[simp] theorem busEnd_idx : (busEnd s).idx = s.idx := rfl
@[simp] theorem busEnd_len : (busEnd s).len = s.len := rfl
@[simp] theorem busEnd_dat : (busEnd s).dat = s.dat := rfl
@[simp] theorem busEnd_cmdb : (busEnd s).cmdb = s.cmdb := rfl
@[simp] theorem busEnd_cnt : (busEnd s).cnt = s.cnt := rfl
@[simp] theorem busEnd_status : (busEnd s).status = s.status := rfl
@[simp] theorem busEnd_value : (busEnd s).value = s.value := rfl
@[simp] theorem busEnd_csLevel : (busEnd s).csLevel = s.csLevel := rfl
@[simp] theorem busEnd_busHeld : (busEnd s).busHeld = false := rfl
@[simp] theorem busEnd_txbuf : (busEnd s).txbuf = s.txbuf := rfl
@[simp] theorem busEnd_rxbuf : (busEnd s).rxbuf = s.rxbuf := rfl
@[simp] theorem busEnd_trace : (busEnd s).trace = s.trace ++ [.busEnd] := rfl
@[simp] theorem busEnd_responses : (busEnd s).responses = s.responses := rfl
@[simp] theorem busEnd_caller : (busEnd s).caller = s.caller := rfl
@[simp] theorem busEnd_replies : (busEnd s).replies = s.replies := rfl
@[simp] theorem busEnd_draws : (busEnd s).draws = s.draws := rfl

@[simp] theorem delayUs_par (t : Nat) : (delayUs t s).par = s.par := rfl
@[simp] theorem delayUs_cfgClk (t : Nat) : (delayUs t s).cfgClk = s.cfgClk := rfl
@[simp] theorem delayUs_cfgCs (t : Nat) : (delayUs t s).cfgCs = s.cfgCs := rfl
@[simp] theorem delayUs_phase (t : Nat) : (delayUs t s).phase = s.phase := rfl
@[simp] theorem delayUs_op (t : Nat) : (delayUs t s).op = s.op := rfl
@[simp] theorem delayUs_idx (t : Nat) : (delayUs t s).idx = s.idx := rfl
@[simp] theorem delayUs_len (t : Nat) : (delayUs t s).len = s.len := rfl
@[simp] theorem delayUs_dat (t : Nat) : (delayUs t s).dat = s.dat := rfl
@[simp] theorem delayUs_cmdb (t : Nat) : (delayUs t s).cmdb = s.cmdb := rfl
@[simp] theorem delayUs_cnt (t : Nat) : (delayUs t s).cnt = s.cnt := rfl
@[simp] theorem delayUs_status (t : Nat) : (delayUs t s).status = s.status := rfl
@[simp] theorem delayUs_value (t : Nat) : (delayUs t s).value = s.value := rfl
@[simp] theorem delayUs_csLevel (t : Nat) : (delayUs t s).csLevel = s.csLevel := rfl
@[simp] theorem delayUs_busHeld (t : Nat) : (delayUs t s).busHeld = s.busHeld := rfl
@[simp] theorem delayUs_txbuf (t : Nat) : (delayUs t s).txbuf = s.txbuf := rfl
@[simp] theorem delayUs_rxbuf (t : Nat) : (delayUs t s).rxbuf = s.rxbuf := rfl
@[simp] theorem delayUs_trace (t : Nat) : (delayUs t s).trace = s.trace ++ [.delay t] := rfl
@[simp] theorem delayUs_responses (t : Nat) : (delayUs t s).responses = s.responses := rfl
@[simp] theorem delayUs_caller (t : Nat) : (delayUs t s).caller = s.caller := rfl
@[simp] theorem delayUs_replies (t : Nat) : (delayUs t s).replies = s.replies := rfl
@[simp] theorem delayUs_draws (t : Nat) : (delayUs t s).draws = s.draws := rfl

@[simp] theorem latchRequest_par (op : Op) (a b : Byte) (clk : Hertz) : (latchRequest op a b clk s).par = s.par := rfl
@[simp] theorem latchRequest_cfgClk (op : Op) (a b : Byte) (clk : Hertz) : (latchRequest op a b clk s).cfgClk = if op = .init then clk else s.cfgClk := rfl
@[simp] theorem latchRequest_cfgCs (op : Op) (a b : Byte) (clk : Hertz) : (latchRequest op a b clk s).cfgCs = if op = .init then a else s.cfgCs := rfl
@[simp] theorem latchRequest_phase (op : Op) (a b : Byte) (clk : Hertz) : (latchRequest op a b clk s).phase = if op = .init then .c1 else .gate := rfl
@[simp] theorem latchRequest_op (op : Op) (a b : Byte) (clk : Hertz) : (latchRequest op a b clk s).op = op := rfl
@[simp] theorem latchRequest_idx (op : Op) (a b : Byte) (clk : Hertz) : (latchRequest op a b clk s).idx = a := rfl
@[simp] theorem latchRequest_len (op : Op) (a b : Byte) (clk : Hertz) : (latchRequest op a b clk s).len = b := rfl
@[simp] theorem latchRequest_dat (op : Op) (a b : Byte) (clk : Hertz) : (latchRequest op a b clk s).dat = if op = .cmd then a else b := rfl
@[simp] theorem latchRequest_cmdb (op : Op) (a b : Byte) (clk : Hertz) : (latchRequest op a b clk s).cmdb = s.cmdb := rfl
@[simp] theorem latchRequest_cnt (op : Op) (a b : Byte) (clk : Hertz) : (latchRequest op a b clk s).cnt = s.cnt := rfl
@[simp] theorem latchRequest_status (op : Op) (a b : Byte) (clk : Hertz) : (latchRequest op a b clk s).status = s.status := rfl
@[simp] theorem latchRequest_value (op : Op) (a b : Byte) (clk : Hertz) : (latchRequest op a b clk s).value = s.value := rfl
@[simp] theorem latchRequest_csLevel (op : Op) (a b : Byte) (clk : Hertz) : (latchRequest op a b clk s).csLevel = s.csLevel := rfl
@[simp] theorem latchRequest_busHeld (op : Op) (a b : Byte) (clk : Hertz) : (latchRequest op a b clk s).busHeld = s.busHeld := rfl
@[simp] theorem latchRequest_txbuf (op : Op) (a b : Byte) (clk : Hertz) : (latchRequest op a b clk s).txbuf = s.txbuf := rfl
@[simp] theorem latchRequest_rxbuf (op : Op) (a b : Byte) (clk : Hertz) : (latchRequest op a b clk s).rxbuf = s.rxbuf := rfl
@[simp] theorem latchRequest_trace (op : Op) (a b : Byte) (clk : Hertz) : (latchRequest op a b clk s).trace = s.trace := rfl
@[simp] theorem latchRequest_responses (op : Op) (a b : Byte) (clk : Hertz) : (latchRequest op a b clk s).responses = s.responses := rfl
@[simp] theorem latchRequest_caller (op : Op) (a b : Byte) (clk : Hertz) : (latchRequest op a b clk s).caller = s.caller := rfl
@[simp] theorem latchRequest_replies (op : Op) (a b : Byte) (clk : Hertz) : (latchRequest op a b clk s).replies = s.replies := rfl
@[simp] theorem latchRequest_draws (op : Op) (a b : Byte) (clk : Hertz) : (latchRequest op a b clk s).draws = s.draws := rfl

@[simp] theorem popMove_par : (popMove s).par = s.par := rfl
@[simp] theorem popMove_cfgClk : (popMove s).cfgClk = s.cfgClk := rfl
@[simp] theorem popMove_cfgCs : (popMove s).cfgCs = s.cfgCs := rfl
@[simp] theorem popMove_phase : (popMove s).phase = s.phase := rfl
@[simp] theorem popMove_op : (popMove s).op = s.op := rfl
@[simp] theorem popMove_idx : (popMove s).idx = s.idx := rfl
@[simp] theorem popMove_len : (popMove s).len = s.len := rfl
@[simp] theorem popMove_dat : (popMove s).dat = s.dat := rfl
@[simp] theorem popMove_cmdb : (popMove s).cmdb = s.cmdb := rfl
@[simp] theorem popMove_cnt : (popMove s).cnt = s.cnt := rfl
@[simp] theorem popMove_status : (popMove s).status = s.status := rfl
@[simp] theorem popMove_value : (popMove s).value = s.value := rfl
@[simp] theorem popMove_csLevel : (popMove s).csLevel = s.csLevel := rfl
@[simp] theorem popMove_busHeld : (popMove s).busHeld = s.busHeld := rfl
@[simp] theorem popMove_txbuf : (popMove s).txbuf = s.txbuf := rfl
@[simp] theorem popMove_rxbuf : (popMove s).rxbuf = s.rxbuf := rfl
@[simp] theorem popMove_trace : (popMove s).trace = s.trace := rfl
@[simp] theorem popMove_responses : (popMove s).responses = s.responses := rfl
@[simp] theorem popMove_caller : (popMove s).caller = s.caller.tail := rfl
@[simp] theorem popMove_replies : (popMove s).replies = s.replies := rfl
@[simp] theorem popMove_draws : (popMove s).draws = s.draws := rfl

end Sys2Proof.Machine
end

