-- ==== Sys2Proof/Laws/Sequencer.lean ====
section
/-! SUPPORT. What each shared operation can do, said once: an exchange, one row of the sequencer, a run to quiescence,
a request. -/

namespace Sys2Proof.Machine

/-! ### One exchange -/

/-- All an exchange does: nothing without a reply, else one event and one reply used. -/
theorem busXfer_cases (tx : Byte) (s : State) :
    (s.replies = [] ∧ busXfer tx s = none) ∨
      ∃ rx rest, s.replies = rx :: rest ∧
        busXfer tx s = some (rx, { s with trace := s.trace ++ [.xfer tx rx], replies := rest }) := by
  unfold busXfer
  split
  · next h => exact .inl ⟨h, rfl⟩
  · next rx rest h => exact .inr ⟨rx, rest, h, rfl⟩

theorem busXfer_nil {tx : Byte} {s : State} (h : s.replies = []) : busXfer tx s = none := by
  simp [busXfer, h]

theorem busXfer_cons {tx rx : Byte} {rest : List Byte} {s : State} (h : s.replies = rx :: rest) :
    busXfer tx s = some (rx, { s with trace := s.trace ++ [.xfer tx rx], replies := rest }) := by
  simp [busXfer, h, emit]

theorem rowX0_nil {s : State} (h : s.replies = []) : rowX0 s = s := by
  simp [rowX0, busXfer_nil h]

theorem rowXp_nil {s : State} (h : s.replies = []) : rowXp s = s := by
  simp [rowXp, busXfer_nil h]

/-- Row `X0` with a reply (R69). -/
theorem rowX0_cons {s : State} {rx : Byte} {rest : List Byte} (h : s.replies = rx :: rest) :
    rowX0 s = { s with
      trace := s.trace ++ [.xfer s.cmdb rx], replies := rest
      status := if isRead s.op then rx else s.status
      cnt := 0, phase := afterExchange s 0 } := by
  cases hr : isRead s.op <;> simp [rowX0, busXfer_cons h, keepStatus, hr]

/-- Row `XP` with a reply (R70). -/
theorem rowXp_cons {s : State} {rx : Byte} {rest : List Byte} (h : s.replies = rx :: rest) :
    rowXp s = { s with
      trace := s.trace ++ [.xfer (payloadByte s) rx], replies := rest
      value := if s.op = .rd1 then rx else s.value
      rxbuf := if s.op = .rdn then s.rxbuf.write s.cnt rx else s.rxbuf
      cnt := s.cnt + 1, phase := afterExchange s (s.cnt + 1) } := by
  cases ho : s.op <;> simp [rowXp, busXfer_cons h, keepPayload, ho]

/-! ### Results of an invalid index -/

/-- All that `invalidResult` can change: the two result latches, the receive buffer, the count of draws (R68). -/
theorem invalidResult_spec (s : State) :
    ∃ st v m d, invalidResult s = { s with status := st, value := v, rxbuf := m, draws := d } ∧
      (s.rxbuf.wf = true → m.wf = true) := by
  unfold invalidResult
  split
  · exact ⟨sentinelStatus, nextDraw s, s.rxbuf, s.draws + 1, rfl, id⟩
  · obtain ⟨m, hm, hw⟩ := drawIntoRx_spec s.len.toNat { s with status := sentinelStatus }
    exact ⟨sentinelStatus, s.value, m, s.draws + s.len.toNat, hm, fun h => (hw h).1⟩
  all_goals exact ⟨s.status, s.value, s.rxbuf, s.draws, rfl, id⟩

/-! ### Runs -/

theorem run_of_quiescent {n : Nat} {s : State} (h : quiescent s = true) : run n s = s := by
  cases n <;> simp [run, h]

theorem run_step {n : Nat} {s : State} (h : quiescent s = false) : run (n + 1) s = run n (advance s) := by
  simp [run, h]

/-- What every row keeps, a run keeps. -/
theorem run_induct {P : State → Prop} (hP : ∀ s, P s → P (advance s)) (n : Nat) (s : State) (h : P s) :
    P (run n s) := by
  induction n generalizing s with
  | zero => exact h
  | succ n ih =>
    unfold run
    split
    · exact h
    · exact ih _ (hP s h)

/-! ### Requests -/

/-- All a request can do (R67): it is performed from accept on, or nothing changes, or the caller has no such move. -/
theorem perform_cases (op : Op) (a b : Byte) (clk : Hertz) (s : State) :
    (admission op s.phase = .accepted ∧
        perform op a b clk s = .next (run longestOperation (latchRequest op a b clk s))) ∨
      (admission op s.phase = .turnedAway ∧ perform op a b clk s = .next s) ∨
      (admission op s.phase = .noMove ∧ perform op a b clk s = .refused .blockBusy) := by
  unfold perform
  cases admission op s.phase <;> simp

/-- A request that ends in a next state ran from accept on, or changed nothing. -/
theorem perform_next {op : Op} {a b : Byte} {clk : Hertz} {s t : State} (h : perform op a b clk s = .next t) :
    (admission op s.phase = .accepted ∧ t = run longestOperation (latchRequest op a b clk s)) ∨
      (admission op s.phase = .turnedAway ∧ t = s) := by
  rcases perform_cases op a b clk s with ⟨ha, hp⟩ | ⟨ha, hp⟩ | ⟨-, hp⟩
  · rw [hp] at h
    exact .inl ⟨ha, (Host.Outcome.next.inj h).symm⟩
  · rw [hp] at h
    exact .inr ⟨ha, (Host.Outcome.next.inj h).symm⟩
  · rw [hp] at h
    cases h

theorem perform_idle {op : Op} {a b : Byte} {clk : Hertz} {s : State} (hp : s.phase = .idle) (ho : op ≠ .init) :
    perform op a b clk s = .next (run longestOperation (latchRequest op a b clk s)) := by
  simp [perform, admission, hp, ho]

theorem perform_init {a b : Byte} {clk : Hertz} {s : State} (hp : s.phase = .uninit) :
    perform .init a b clk s = .next (run longestOperation (latchRequest .init a b clk s)) := by
  simp [perform, admission, hp]

/-! ### Steps -/

theorem step_busy {s : State} (h : s.phase.waitsForCaller = false) : step s = .next (advance s) := by
  simp [step, h]

theorem step_waiting {s : State} (h : s.phase.waitsForCaller = true) : step s = takeMove s := by
  simp [step, h]

/-- All the caller's next move can be. -/
theorem takeMove_cases (s : State) :
    (s.caller = [] ∧ takeMove s = .next s) ∨
      (∃ b k v rest, s.caller = .store b k v :: rest ∧
        takeMove s = .next (storeByte b k v { s with caller := rest })) ∨
      (∃ w rest, s.caller = .request w :: rest ∧ takeMove s = takeRequest w s) := by
  unfold takeMove
  split
  · next h => exact .inl ⟨h, rfl⟩
  · next b k v rest h => exact .inr (.inl ⟨b, k, v, rest, h, by simp [popMove, h]⟩)
  · next w rest h => exact .inr (.inr ⟨w, rest, h, rfl⟩)

/-- A request the caller issues is one of the six operations, performed with or without the move used up, or a reserved
code, refused (R55, R57). -/
theorem takeRequest_cases (w : Descriptor) (s : State) :
    (∃ op a b clk s', (s' = popMove s ∨ s' = s) ∧ takeRequest w s = perform op a b clk s') ∨
      takeRequest w s = .next s := by
  unfold takeRequest fetchRequest
  split
  · next i h =>
    left
    have hi : ∃ op a b clk, ∀ u, exec i u = perform op a b clk u := by
      unfold decodeDescriptor at h
      split at h <;> cases h
      · exact ⟨.init, _, _, _, fun _ => rfl⟩
      · exact ⟨.rd1, _, _, _, fun _ => rfl⟩
      · exact ⟨.rdn, _, _, _, fun _ => rfl⟩
      · exact ⟨.cmd, _, _, _, fun _ => rfl⟩
      · exact ⟨.wr1, _, _, _, fun _ => rfl⟩
      · exact ⟨.wrn, _, _, _, fun _ => rfl⟩
    obtain ⟨op, a, b, clk, he⟩ := hi
    split
    · exact ⟨op, a, b, clk, _, .inl rfl, he _⟩
    · exact ⟨op, a, b, clk, _, .inr rfl, he _⟩
  · exact .inr rfl

/-- A request the waiting block does not accept leaves everything as it is, the caller's list too (R57, R82, R83;
log 9). -/
theorem takeRequest_refused {w : Descriptor} {s : State} (hw : s.phase.waitsForCaller = true)
    (h : 0x06 ≤ fieldOpc w ∨ s.phase ≠ acceptingPhase w) : takeRequest w s = .next s := by
  unfold takeRequest fetchRequest decodeDescriptor
  split
  · next i hi =>
    split at hi <;> cases hi
    all_goals
      next ho =>
        have hf : fieldOpc w = BitVec.ofNat 8 (fieldOpc w).toNat := by simp
        rw [ho] at hf
        have hne : s.phase ≠ acceptingPhase w := h.resolve_left (by rw [hf]; decide)
        rw [if_neg hne]
        cases hp : s.phase <;> rw [hp] at hw hne <;>
          simp_all [Phase.waitsForCaller, acceptingPhase, exec, execInit, execRd1, execRdn, execCmd, execWr1, execWrn,
            perform, admission]
  · rfl

end Sys2Proof.Machine
end

