-- ==== Sys2Proof/Laws/Runs.lean ====
section
/-! SUPPORT. What the sequencer does from one waiting place to the next, said once: from the gate to the command
exchange, through the payload exchanges, from the last exchange to the response. -/

namespace Sys2Proof.Machine

theorem quiescent_idle {s : State} (h : s.phase = .idle) : quiescent s = true := by
  simp [quiescent, Phase.waitsForCaller, h]

theorem quiescent_stuck {s : State} (h : s.stuck) : quiescent s = true := by
  obtain ⟨hp | hp, hr⟩ := h <;> simp [quiescent, awaitsReply, hp, hr]

/-- The gate passes: three events later the command byte is due (R64, R68). -/
theorem run_gate_pass {n : Nat} {s : State} (hp : s.phase = .gate) (hg : passesGate s = true) :
    run (n + 4) s = run n
      { s with
        cmdb := commandByte s
        trace := s.trace ++
          [.busBegin s.cfgClk .msbFirst .idleLowSampleRising, .csWrite s.cfgCs .low, .delay s.par.tSettleUs]
        busHeld := true
        csLevel := .low
        phase := .x0 } := by
  simp [run, quiescent, awaitsReply, Phase.waitsForCaller, advance, rowGate, rowB1, rowB2, rowB3, hp, hg, csActive,
    csLevelOf, busBegin, csWrite, delayUs, emit]

/-- The gate fails: the response follows at once (R68, R71). -/
theorem run_gate_fail {n : Nat} {s : State} (hp : s.phase = .gate) (hg : passesGate s = false) :
    run (n + 2) s =
      { invalidResult s with
        responses := (invalidResult s).responses ++ [responseOf (invalidResult s)], phase := .idle } := by
  have hq : quiescent s = false := by simp [quiescent, awaitsReply, Phase.waitsForCaller, hp]
  have ha : advance s = { invalidResult s with phase := .respond } := by simp [advance, rowGate, hp, hg]
  rw [run_step hq, ha, run_step (by simp [quiescent, awaitsReply, Phase.waitsForCaller])]
  exact run_of_quiescent (quiescent_idle rfl)

/-- The bracket is closed and the response given (R65, R71). -/
theorem run_end {n : Nat} {s : State} (hp : s.phase = .e1) :
    run (n + 4) s =
      { s with
        trace := s.trace ++ [.csWrite s.cfgCs .high, .delay s.par.tSettleUs, .busEnd]
        csLevel := .high
        busHeld := false
        responses := s.responses ++ [responseOf s]
        phase := .idle } := by
  refine Eq.trans ?_ (run_of_quiescent (n := n) (quiescent_idle rfl))
  simp [run, quiescent, awaitsReply, Phase.waitsForCaller, advance, rowE1, rowE2, rowE3, rowRespond, hp, csInactive,
    csLevelOf, busEnd, csWrite, delayUs, emit]
  rfl

/-- Construction, from its first call to the response (R81). -/
theorem run_construct {n : Nat} {s : State} (hp : s.phase = .c1) :
    run (n + 4) s =
      { s with
        trace := s.trace ++ [.csMode s.cfgCs .output, .csWrite s.cfgCs .high, .busInit]
        csLevel := .high
        responses := s.responses ++ [responseOf s]
        phase := .idle } := by
  refine Eq.trans ?_ (run_of_quiescent (n := n) (quiescent_idle rfl))
  simp [run, quiescent, awaitsReply, Phase.waitsForCaller, advance, rowC1, rowC2, rowC3, rowRespond, hp, csInactive,
    csLevelOf, busInit, csMode, csWrite, emit]
  rfl

/-- The command exchange, answered (R69). -/
theorem run_x0 {n : Nat} {s : State} {rx : Byte} {rest : List Byte} (hp : s.phase = .x0)
    (hr : s.replies = rx :: rest) : run (n + 1) s = run n (rowX0 s) := by
  rw [run_step (by simp [quiescent, awaitsReply, Phase.waitsForCaller, hp, hr])]
  simp [advance, hp]

/-- One payload exchange, answered (R70). -/
theorem run_xp {n : Nat} {s : State} {rx : Byte} {rest : List Byte} (hp : s.phase = .xp)
    (hr : s.replies = rx :: rest) : run (n + 1) s = run n (rowXp s) := by
  rw [run_step (by simp [quiescent, awaitsReply, Phase.waitsForCaller, hp, hr])]
  simp [advance, hp]

/-- From the gate to the answered command exchange: four events, the status kept by a read (R64, R68, R69). -/
theorem run_to_payload {n : Nat} {s : State} {rx : Byte} {rest : List Byte} (hp : s.phase = .gate)
    (hg : passesGate s = true) (hr : s.replies = rx :: rest) :
    run (n + 5) s = run n
      { s with
        cmdb := commandByte s
        trace := s.trace ++
          [.busBegin s.cfgClk .msbFirst .idleLowSampleRising, .csWrite s.cfgCs .low, .delay s.par.tSettleUs,
            .xfer (commandByte s) rx]
        replies := rest
        busHeld := true
        csLevel := .low
        status := if isRead s.op then rx else s.status
        cnt := 0
        phase := afterExchange s 0 } := by
  rw [show n + 5 = (n + 1) + 4 from rfl, run_gate_pass hp hg]
  refine Eq.trans (run_x0 (rx := rx) (rest := rest) rfl hr) ?_
  rw [rowX0_cons (rx := rx) (rest := rest) (by exact hr)]
  simp [afterExchange, payloadLeft, payloadCount]

/-- `CNT` does not wrap below the payload count (R53). -/
theorem cnt_succ {c n : Byte} (h : c.toNat < n.toNat) : (c + 1).toNat = c.toNat + 1 := by
  have := n.isLt
  rw [BitVec.toNat_add]
  simp
  omega

/-- The payload exchanges of `RDN` that the replies answer: fillers out, the replies into `RXBUF` in order (R70). -/
theorem run_reads (rs : List Byte) (n : Nat) (s : State) (rest : List Byte) (ho : s.op = .rdn)
    (hp : s.phase = afterExchange s s.cnt) (hl : s.cnt.toNat + rs.length ≤ s.len.toNat)
    (hr : s.replies = rs ++ rest) (hw : s.rxbuf.wf = true) :
    ∃ m c, c.toNat = s.cnt.toNat + rs.length ∧
      run (n + rs.length) s = run n
        { s with
          trace := s.trace ++ exchangesOf (List.replicate rs.length 0xFF) rs
          replies := rest
          rxbuf := m
          cnt := c
          phase := afterExchange s c } ∧
      m.wf = true ∧
      ∀ k : Byte, m.read k =
        if s.cnt.toNat ≤ k.toNat ∧ k.toNat < s.cnt.toNat + rs.length then rs.getD (k.toNat - s.cnt.toNat) 0
        else s.rxbuf.read k := by
  induction rs generalizing n s rest with
  | nil =>
    refine ⟨s.rxbuf, s.cnt, by simp, ?_, hw, fun k => by rw [if_neg]; simp⟩
    rw [← hp, ← (show s.replies = rest from hr)]
    simp [exchangesOf]
  | cons r rs ih =>
    simp only [List.length_cons] at hl
    have hlt : s.cnt.toNat < s.len.toNat := by omega
    have hpx : s.phase = .xp := by rw [hp]; simp [afterExchange, payloadLeft, payloadCount, ho, hlt]
    have hc := cnt_succ hlt
    have hstep := run_xp (n := n + rs.length) hpx hr
    rw [rowXp_cons hr, if_neg (by rw [ho]; decide), if_pos ho] at hstep
    obtain ⟨m, c, hcc, hrun, hmw, hm⟩ := ih n
      { s with
        trace := s.trace ++ [.xfer (payloadByte s) r], replies := rs ++ rest, rxbuf := s.rxbuf.write s.cnt r
        cnt := s.cnt + 1, phase := afterExchange s (s.cnt + 1) }
      rest ho (by simp [afterExchange, payloadLeft, payloadCount]) (by simp only [hc]; omega) rfl (write_wf hw)
    refine ⟨m, c, by simp only [hc] at hcc; simp only [List.length_cons]; omega, ?_, hmw, fun k => ?_⟩
    · refine hstep.trans (hrun.trans ?_)
      simp [exchangesOf, List.replicate_succ, payloadByte, ho, filler, afterExchange, payloadLeft, payloadCount]
    · simp only [hm k, hc, read_write hw, List.length_cons]
      by_cases hk : k = s.cnt
      · subst hk
        simp
      · have hne : k.toNat ≠ s.cnt.toNat := fun h => hk (BitVec.eq_of_toNat_eq h)
        by_cases hin : s.cnt.toNat + 1 ≤ k.toNat ∧ k.toNat < s.cnt.toNat + 1 + rs.length
        · have hk' : k.toNat - s.cnt.toNat = (k.toNat - (s.cnt.toNat + 1)) + 1 := by omega
          rw [if_pos hin, if_pos (by omega), hk']
          simp
        · rw [if_neg hin, if_neg hk, if_neg (by omega)]

/-- The payload exchanges of `WRN` that the replies answer: the bytes of `TXBUF` out in order (R70). -/
theorem run_writes (rs : List Byte) (n : Nat) (s : State) (rest : List Byte) (ho : s.op = .wrn)
    (hp : s.phase = afterExchange s s.cnt) (hl : s.cnt.toNat + rs.length ≤ s.len.toNat)
    (hr : s.replies = rs ++ rest) :
    ∃ c : Byte, c.toNat = s.cnt.toNat + rs.length ∧
      run (n + rs.length) s = run n
        { s with
          trace := s.trace ++
            exchangesOf ((List.range' s.cnt.toNat rs.length).map fun k => s.txbuf.read (BitVec.ofNat 8 k)) rs
          replies := rest
          cnt := c
          phase := afterExchange s c } := by
  induction rs generalizing n s rest with
  | nil =>
    refine ⟨s.cnt, by simp, ?_⟩
    rw [← hp, ← (show s.replies = rest from hr)]
    simp [exchangesOf]
  | cons r rs ih =>
    simp only [List.length_cons] at hl
    have hlt : s.cnt.toNat < s.len.toNat := by omega
    have hpx : s.phase = .xp := by rw [hp]; simp [afterExchange, payloadLeft, payloadCount, ho, hlt]
    have hc := cnt_succ hlt
    have hstep := run_xp (n := n + rs.length) hpx hr
    rw [rowXp_cons hr, if_neg (by rw [ho]; decide), if_neg (by rw [ho]; decide)] at hstep
    obtain ⟨c, hcc, hrun⟩ := ih n
      { s with
        trace := s.trace ++ [.xfer (payloadByte s) r], replies := rs ++ rest
        cnt := s.cnt + 1, phase := afterExchange s (s.cnt + 1) }
      rest ho (by simp [afterExchange, payloadLeft, payloadCount]) (by simp only [hc]; omega) rfl
    refine ⟨c, by simp only [hc] at hcc; simp only [List.length_cons]; omega, hstep.trans (hrun.trans ?_)⟩
    simp only [hc, exchangesOf, List.length_cons, List.range'_succ, List.map_cons, List.zipWith_cons_cons]
    simp [payloadByte, ho, afterExchange, payloadLeft, payloadCount]

end Sys2Proof.Machine
end

