-- ==== Sys2Proof/Tests/Slice0.lean ====
section
/-! SUPPORT. The author's own tests: words written out from the spec's encodings, single steps with the results of
spec/95_test_vectors.md under `REF`, and for each obligation with hypotheses a state that meets them. -/

namespace Sys2Proof.Tests

open Sys2Proof Sys2Proof.Machine

/-! ### Sample states -/

/-- The trace of a block of `REF` with clock 4000000 and chip-select 7 in its first transaction, up to each phase
(spec/95 program P1, events 1 to 11; the payload byte at `XP` is not yet exchanged). -/
def sampleTrace (t : TraceSite) : List Event :=
  List.take
    (match t with
    | .powerOn => 0
    | .lineOutput => 1
    | .lineInactive => 2
    | .outside => 3
    | .acquired => 4
    | .asserted => 5
    | .settled => 6
    | .exchanging => 7
    | .deasserted => 8
    | .released => 9)
    [.csMode 7 .output, .csWrite 7 .high, .busInit, .busBegin 4000000 .msbFirst .idleLowSampleRising, .csWrite 7 .low,
      .delay 1, .xfer 0x25 0x0E, .csWrite 7 .high, .delay 1]

/-- A block under `REF` in a phase, with operand latches and the replies to come. -/
def sample (ph : Phase) (op : Op) (idx len : Byte) (rs : List Byte) : State :=
  let s : State :=
    { par := Params.ref, cfgClk := 4000000, cfgCs := 7, phase := ph, op := op, idx := idx, len := len, dat := len
      cmdb := 0, cnt := 0, status := 0, value := 0, csLevel := levelOf ph, busHeld := heldIn ph, txbuf := []
      rxbuf := [], trace := sampleTrace (siteOf ph), responses := [], caller := [], replies := rs, draws := 0 }
  { s with cmdb := commandByte s }

/-- A block under `REF` that waits for a request. -/
def ready (rs : List Byte) : State := sample .idle .init 7 0 rs

/-- A block under `REF` that is not constructed. -/
def unbuilt : State := sample .uninit .init 0 0 []

/-- A block whose caller makes one move next. -/
def calls (m : CallerMove) (s : State) : State := { s with caller := [m] }

/-- The bracket `BR(4000000, 7)` of spec/95 under `REF`. -/
def br (xs : List Event) : List Event :=
  [.busBegin 4000000 .msbFirst .idleLowSampleRising, .csWrite 7 .low, .delay 1] ++ xs ++
    [.csWrite 7 .high, .delay 1, .busEnd]

/-- What is looked at in the state an answer leads to. -/
def seen {α : Type} (f : State → α) : Answer → Option α
  | .next t => some (f t)
  | .fault _ => none
  | .refused _ => none

/-- The events of one operation on a ready block: those after the three of construction. -/
def events (s : State) : List Event := s.trace.drop 3

/-! ### Ill-formed terms are refused (R16, R51) -/

theorem test_illformed_read_byte : (Instr.wireRReg 30).wellFormed Params.ref = false := by decide

theorem test_illformed_write_byte : (Instr.wireWReg 0xFF).wellFormed Params.ref = false := by decide

theorem test_boundary_command_bytes :
    (Instr.wireRReg 29).wellFormed Params.ref = true ∧ (Instr.wireWReg 29).wellFormed Params.ref = true := by decide

theorem test_index_out_of_range_is_wellformed : (Instr.rd1 0xFF 0).wellFormed Params.ref = true := by decide

theorem test_equal_bases_refused : Params.ofSet? { readBase := 0x20 } = none := by decide

theorem test_no_index_bits_refused : Params.ofSet? { readBase := 0x01 } = none := by decide

theorem test_no_registers_refused : Params.ofSet? { numRegisters := 0 } = none := by decide

theorem test_too_many_registers_refused : Params.ofSet? { numRegisters := 33 } = none := by decide

theorem test_no_settle_time_refused : Params.ofSet? { tSettleUs := 0 } = none := by decide

theorem test_reference_set_taken : (Params.ofSet? {}).isSome = true := by decide

/-! ### Words from the spec's encodings (R51, R54, R55; spec/95 section 3.1 and 3.3) -/

theorem test_decode_init : decodeTableWord 64 0x00070000003D0900 = some (.init 4000000 7 0) := by decide

theorem test_decode_rd1 : decodeTableWord 64 0x0105000000000000 = some (.rd1 5 0) := by decide

/-- Junk in the ignored fields: the same operation (`B` is carried, the reserved byte and `CLK` are not). -/
theorem test_decode_rd1_junk : decodeTableWord 64 0x0105FFFFFFFFFFFF = some (.rd1 5 0xFF) := by decide

theorem test_decode_rdn : decodeTableWord 64 0x0200FF0000000000 = some (.rdn 0 255) := by decide

theorem test_decode_cmd : decodeTableWord 64 0x03E1000000000000 = some (.cmd 0xE1 0) := by decide

theorem test_decode_wr1 : decodeTableWord 64 0x0405AA0000000000 = some (.wr1 5 0xAA) := by decide

theorem test_decode_wrn : decodeTableWord 64 0x050A050000000000 = some (.wrn 10 5) := by decide

theorem test_decode_reserved : decodeTableWord 64 0x0600000000000000 = none := by decide

/-- `RD1 5` under `REF`: byte 0b00000101. -/
theorem test_decode_read_byte : decodeTableWord 8 0b00000101 = some (.wireRReg 5) := by decide

/-- `WR1 29` under `REF`: byte 0b00111101. -/
theorem test_decode_write_byte : decodeTableWord 8 0b00111101 = some (.wireWReg 29) := by decide

/-- The byte 0xE1 lies under neither base of `REF`. -/
theorem test_decode_other_byte : decodeTableWord 8 0xE1 = none := by decide

theorem test_encode_init : encode Params.ref (.init 4000000 7 0) = .descriptor 0x00070000003D0900 := by decide

theorem test_encode_wrn : encode Params.ref (.wrn 10 5) = .descriptor 0x050A050000000000 := by decide

theorem test_encode_write_byte : encode Params.ref (.wireWReg 5) = .commandByte 0x25 := by decide

/-! ### One operation (spec/95 sections 3.4 to 3.7) -/

/-- Section 3.7, row 1. -/
theorem test_init :
    seen (fun t => ((t.trace, t.phase), (t.cfgClk, t.cfgCs), t.csLevel, t.busHeld)) (exec (.init 4000000 7 0) unbuilt) =
      some (([.csMode 7 .output, .csWrite 7 .high, .busInit], .idle), (4000000, 7), .high, false) := by decide

/-- Section 3.7, row 5. -/
theorem test_second_init_refused :
    seen (fun t => (t.cfgClk, t.cfgCs, events t, t.responses)) (exec (.init 1000000 8 0) (ready [])) =
      some (4000000, 7, [], []) := by decide

/-- Section 3.4, row 1. -/
theorem test_rd1 :
    seen (fun t => (events t, t.responses)) (exec (.rd1 5 0) (ready [0x0E, 0xAA])) =
      some (br [.xfer 0x05 0x0E, .xfer 0xFF 0xAA], [.statusValue 0x0E 0xAA]) := by decide

/-- Section 3.4, row 4: no event, sentinel status. -/
theorem test_rd1_invalid :
    seen (fun t => (events t, t.status, t.phase)) (exec (.rd1 30 0) (ready [])) = some ([], 0xFF, .idle) := by decide

/-- Section 3.4, row 8. -/
theorem test_rdn :
    seen (fun t => (events t, t.responses, t.rxbuf)) (exec (.rdn 10 3) (ready [0x0E, 0x11, 0x22, 0x33])) =
      some (br [.xfer 0x0A 0x0E, .xfer 0xFF 0x11, .xfer 0xFF 0x22, .xfer 0xFF 0x33], [.status 0x0E],
        [(0, 0x11), (1, 0x22), (2, 0x33)]) := by decide

/-- Program P4: the third exchange is not answered. -/
theorem test_rdn_hang :
    seen (fun t => ((t.phase, t.cnt), t.status, t.rxbuf)) (exec (.rdn 7 3) (ready [0x0E, 0x41])) =
        some ((.xp, 1), 0x0E, [(0, 0x41)]) ∧
      seen (fun t => ((t.csLevel, t.busHeld), t.trace.length, t.responses))
        (exec (.rdn 7 3) (ready [0x0E, 0x41])) = some ((.low, true), 8, []) := by decide

/-- Section 3.5, row 1. -/
theorem test_cmd :
    seen (fun t => (events t, t.responses)) (exec (.cmd 0xE1 0) (ready [0x0E])) =
      some (br [.xfer 0xE1 0x0E], [.completion]) := by decide

/-- Section 3.7, row 4. -/
theorem test_cmd_before_init :
    seen (fun t => (t.trace, t.responses, t.phase)) (exec (.cmd 0xFF 0) unbuilt) = some ([], [], .uninit) := by decide

/-- Section 3.6, row 1. -/
theorem test_wr1 :
    seen (fun t => (events t, t.responses)) (exec (.wr1 5 0xAA) (ready [0x0E, 0x00])) =
      some (br [.xfer 0x25 0x0E, .xfer 0xAA 0x00], [.completion]) := by decide

/-- Section 3.6, row 4. -/
theorem test_wr1_invalid :
    seen (fun t => (events t, t.responses)) (exec (.wr1 30 0x12) (ready [])) = some ([], [.completion]) := by decide

/-- Section 3.6, row 8. -/
theorem test_wrn :
    seen (fun t => (events t, t.responses))
        (exec (.wrn 10 5) { ready [0x0E, 0, 0, 0, 0, 0] with
          txbuf := [(0, 0xE7), (1, 0xD3), (2, 0xF0), (3, 0x35), (4, 0x77)] }) =
      some (br [.xfer 0x2A 0x0E, .xfer 0xE7 0, .xfer 0xD3 0, .xfer 0xF0 0, .xfer 0x35 0, .xfer 0x77 0],
        [.completion]) := by decide

/-- Section 3.6, row 6. -/
theorem test_wrn_no_payload :
    seen (fun t => (events t, t.responses)) (exec (.wrn 10 0) (ready [0x0E])) =
      some (br [.xfer 0x2A 0x0E], [.completion]) := by decide

/-- Program P1, event 15. -/
theorem test_read_byte :
    seen (fun t => (t.trace.getLast?, t.status, t.phase)) (exec (.wireRReg 5) (sample .x0 .rd1 5 0 [0x0E])) =
      some (some (.xfer 0x05 0x0E), 0x0E, .xp) := by decide

/-- Program P1, event 7: the reply is discarded. -/
theorem test_write_byte :
    seen (fun t => (t.trace.getLast?, t.status, t.phase)) (exec (.wireWReg 5) (sample .x0 .wr1 5 0xAA [0x0E])) =
      some (some (.xfer 0x25 0x0E), 0, .xp) := by decide

/-! ### The caller's moves -/

/-- The host's placement of a descriptor is run by the very next step, from reset. -/
theorem test_placed_descriptor_runs :
    step (State.reset.withFetchWord 64 0x03E1000000000000) = exec (.cmd 0xE1 0) { State.reset with phase := .idle } :=
  rfl

/-- The host's placement of a command byte is sent by the very next step, from reset. -/
theorem test_placed_byte_runs :
    step (State.reset.withFetchWord 8 0x25) = exec (.wireWReg 5) (State.reset.withFetchWord 8 0x25) := rfl

/-- A byte under a base with an invalid index is placed as the code of a `CMD`, the one operation that sends it. -/
theorem test_placed_invalid_index :
    seen (fun t => (t.trace.getLast?, t.status, t.phase)) (step ((sample .x0 .rd1 5 0 [0x0E]).withFetchWord 8 0x1E)) =
      some (some (.xfer 0x1E 0x0E), 0, .e1) := by decide

/-- A refused request stays, and the run has not ended. -/
theorem test_refused_request_stays :
    step (calls (.request 0x00080000000F4240) (ready [])) = .next (calls (.request 0x00080000000F4240) (ready [])) ∧
      ¬ (calls (.request 0x00080000000F4240) (ready [])).final := ⟨rfl, by decide⟩

/-- A store that writes what an unlisted byte reads as takes the cell away. -/
theorem test_store_keeps_form : (Memory.write [(3, 0x11), (5, 0x22)] 3 0x00, Memory.write [(5, 0x22)] 3 0x11) =
    (([(5, 0x22)] : Memory), ([(3, 0x11), (5, 0x22)] : Memory)) := by decide

/-! ### States that meet the hypotheses of the statements -/

/-- A set with 128 registers, the most there can be (R52). -/
theorem witness_AtMost128Registers :
    (Params.ofSet? { numRegisters := 128, readBase := 0x00, writeBase := 0x80 }).isSome = true := by decide

theorem witness_IndexBitsAreTheLargest :
    Params.ref.readBase &&& BitVec.ofNat 8 (2 ^ 5 - 1) = 0 ∧ Params.ref.writeBase &&& BitVec.ofNat 8 (2 ^ 5 - 1) = 0 ∧
      Params.ref.idxBits = 5 := by decide

theorem witness_WellFormedSetsKeepCommandBytesApart :
    (29 : Byte).toNat < Params.ref.numRegisters ∧ ¬ (30 : Byte).toNat < Params.ref.numRegisters := by decide

theorem witness_DecodeOfEncode :
    (Instr.wireRReg 29).wellFormed Params.ref = true ∧ (Instr.init 0xFFFFFFFF 0xFF 0xFF).wellFormed Params.ref = true := by
  decide

theorem witness_EncodeOfDecode :
    decodeDescriptor 0x00FFFFFFFFFFFFFF = .ok (.init 0xFFFFFFFF 0xFF 0xFF) ∧
      decodeDescriptor 0x0105FFFFFFFFFFFF = .ok (.rd1 5 0xFF) := by decide

/-- Each clause at both ends of its range. -/
theorem witness_DescriptorFieldsDecode :
    (0x00FFFFFFFFFFFFFF : Descriptor) &&& 0xFF00000000000000 = 0x0000000000000000 ∧
    (0x01FFFFFFFFFFFFFF : Descriptor) &&& 0xFF00000000000000 = 0x0100000000000000 ∧
    (0x0200000000000000 : Descriptor) &&& 0xFF00000000000000 = 0x0200000000000000 ∧
    (0x0300000000000000 : Descriptor) &&& 0xFF00000000000000 = 0x0300000000000000 ∧
    (0x0400000000000000 : Descriptor) &&& 0xFF00000000000000 = 0x0400000000000000 ∧
    (0x05FFFFFFFFFFFFFF : Descriptor) &&& 0xFF00000000000000 = 0x0500000000000000 ∧
    ¬ (0x0600000000000000 : Descriptor) ≤ 0x05FFFFFFFFFFFFFF ∧
    (0x0600000000000000 : Descriptor) ≤ 0x0600000000000000 ∧ (0x0600000000000000 : Descriptor) ≤ 0xFFFFFFFFFFFFFFFF := by
  decide

theorem witness_ReservedDescriptorIsRefused :
    ((calls (.request 0x0600000000000000) unbuilt).phase.waitsForCaller = true ∧
        0x06 ≤ fieldOpc 0x0600000000000000) ∧
      ((calls (.request 0xFF05AA0000000000) (ready [])).phase.waitsForCaller = true ∧
        0x06 ≤ fieldOpc 0xFF05AA0000000000) ∧ fieldOpc 0x05FFFFFFFFFFFFFF < 0x06 := by decide

theorem witness_StepRunsTheDecodedRequest :
    (calls (.request 0x0105000000000000) (ready [])).phase.waitsForCaller = true ∧
      (calls (.request 0x0105000000000000) (ready [])).caller = [.request 0x0105000000000000] ∧
      decodeDescriptor 0x0105000000000000 = .ok (.rd1 5 0) ∧
      ((calls (.request 0x0105000000000000) (ready [])).phase = .uninit ↔ fieldOpc 0x0105000000000000 = 0) ∧
      unbuilt.phase.waitsForCaller = true ∧ ¬ (unbuilt.phase = .uninit ↔ fieldOpc 0x0105000000000000 = 0) := by decide

theorem witness_CallerStoreChangesOneByte :
    (calls (.store .rx 255 0x12) (ready [])).phase.waitsForCaller = true ∧
      (calls (.store .rx 255 0x12) (ready [])).txbuf.wf = true ∧
      (calls (.store .rx 255 0x12) (ready [])).rxbuf.wf = true := by decide

/-- The invariant does not speak of the environment. -/
theorem inv_replies {s : State} (h : s.Inv) (rs : List Byte) : State.Inv { s with replies := rs } :=
  ⟨h.txbuf_wf, h.rxbuf_wf, h.level, h.held, h.quiet, h.order, h.isInit, h.notInit, h.validOnBus, h.byteOnBus,
    h.counting, h.counted⟩

/-- A ready block meets the invariant. -/
theorem ready_inv (rs : List Byte) : (ready rs).Inv :=
  inv_replies (s := ready []) (by constructor <;> decide) rs

theorem unbuilt_inv : unbuilt.Inv := by constructor <;> decide

/-- A write in its payload exchange meets the invariant. -/
theorem writing_inv (rs : List Byte) : (sample .xp .wr1 5 0xAA rs).Inv :=
  inv_replies (s := sample .xp .wr1 5 0xAA []) (by constructor <;> decide) rs

theorem witness_StepKeepsTheInvariant :
    ∃ t, (sample .xp .wr1 5 0xAA [0x00]).Inv ∧ step (sample .xp .wr1 5 0xAA [0x00]) = .next t :=
  ⟨_, writing_inv _, rfl⟩

theorem witness_ExchangesLieInsideBrackets :
    (sample .xp .wr1 5 0xAA []).Inv ∧
      (sample .xp .wr1 5 0xAA []).trace = sampleTrace .settled ++ .xfer 0x25 0x0E :: [] :=
  ⟨writing_inv _, rfl⟩

theorem witness_LineStateFollowsTheTrace :
    (sample .b2 .wr1 5 0xAA []).csLevel = levelAfter (sample .b2 .wr1 5 0xAA []).trace ∧
      (sample .b2 .wr1 5 0xAA []).busHeld = heldAfter (sample .b2 .wr1 5 0xAA []).trace ∧
      ∃ t, step (sample .b2 .wr1 5 0xAA []) = .next t := ⟨rfl, rfl, _, rfl⟩

/-- A block that is about to respond meets the invariant, and its step responds. -/
theorem witness_ResponseOnlyAfterTheBracket :
    (sample .respond .wr1 5 0xAA []).Inv ∧
      seen State.responses (step (sample .respond .wr1 5 0xAA [])) = some [.completion] :=
  ⟨by constructor <;> decide, by decide⟩

theorem witness_ConfigurationIsImmutable : ∃ t, step (ready []) = .next t ∧ (ready []).phase ≠ .uninit :=
  ⟨_, rfl, by decide⟩

theorem witness_ConstructedForEver :
    ∃ t, (sample .c1 .init 7 0 []).phase ≠ .uninit ∧ step (sample .c1 .init 7 0 []) = .next t :=
  ⟨_, by decide, rfl⟩

/-- One step of a busy block for each case: no event at `GATE`, none unanswered, one at `B1`. -/
theorem witness_TraceGrowsByOneEventARow :
    (sample .gate .rd1 30 0 []).phase.waitsForCaller = false ∧
      ((sample .x0 .rd1 5 0 []).phase.waitsForCaller = false ∧ awaitsReply (sample .x0 .rd1 5 0 []) = true) ∧
      ((sample .b1 .rd1 5 0 []).phase.waitsForCaller = false ∧ awaitsReply (sample .b1 .rd1 5 0 []) = false) := by
  decide

theorem witness_ConstructionRows :
    (sample .c1 .init 7 0 []).phase = .c1 ∧ (sample .c2 .init 7 0 []).phase = .c2 ∧
      (sample .c3 .init 7 0 []).phase = .c3 := by decide

/-- The gate at the last valid and the first invalid index (spec/95 section 3.2). -/
theorem witness_GateStep :
    ((sample .gate .cmd 0xE1 0 []).phase = .gate ∧ (sample .gate .cmd 0xE1 0 []).op = .cmd) ∧
    ((sample .gate .rdn 29 0 []).op = .rdn ∧ (29 : Byte).toNat < (sample .gate .rdn 29 0 []).par.numRegisters) ∧
    ((sample .gate .wr1 29 0 []).op = .wr1 ∧ (29 : Byte).toNat < (sample .gate .wr1 29 0 []).par.numRegisters) ∧
    ((sample .gate .rd1 30 0 []).op = .rd1 ∧ (sample .gate .rd1 30 0 []).par.numRegisters ≤ (30 : Byte).toNat) ∧
    ((sample .gate .rdn 30 255 []).op = .rdn ∧ (sample .gate .rdn 30 255 []).rxbuf.wf = true ∧
      (sample .gate .rdn 30 255 []).len.toNat ≤ (255 : Byte).toNat) ∧
    ((sample .gate .wrn 0xFF 3 []).op = .wrn ∧ (sample .gate .wrn 0xFF 3 []).par.numRegisters ≤ (0xFF : Byte).toNat) := by
  decide

theorem witness_BeginOpensTheBracket : (sample .b1 .rd1 5 0 []).phase = .b1 := by decide

theorem witness_EndClosesTheBracket : (sample .e1 .rd1 5 0 []).phase = .e1 := by decide

/-- A command exchange with and without a payload to follow. -/
theorem witness_CommandExchange :
    ((sample .x0 .rdn 5 0 [0x0E]).phase = .x0 ∧ (sample .x0 .rdn 5 0 [0x0E]).replies = [0x0E] ∧
        (sample .x0 .rdn 5 0 [0x0E]).op ≠ .init) ∧
      ((sample .x0 .wrn 5 255 [0xFF]).phase = .x0 ∧ (sample .x0 .wrn 5 255 [0xFF]).replies = [0xFF] ∧
        (sample .x0 .wrn 5 255 [0xFF]).op ≠ .init) := by decide

/-- A payload exchange of each operation, the last one of the longest read and write among them. -/
theorem witness_PayloadExchange :
    (sample .xp .wr1 5 0xAA [0x00]).Inv ∧
    ((sample .xp .rd1 5 0 [0xAA]).phase = .xp ∧ (sample .xp .rd1 5 0 [0xAA]).cnt = 0) ∧
    ((sample .xp .wr1 5 0xAA [0x00]).phase = .xp ∧ (sample .xp .wr1 5 0xAA [0x00]).cnt = 0) ∧
    (254 : Byte).toNat < (sample .xp .rdn 5 255 [0x00]).len.toNat ∧ (sample .xp .rdn 5 255 [0x00]).rxbuf.wf = true ∧
    (254 : Byte).toNat < (sample .xp .wrn 5 255 [0x00]).len.toNat :=
  ⟨writing_inv _, by decide⟩

theorem witness_RespondStep :
    ((sample .e3 .rd1 5 0 []).phase.waitsForCaller = false ∧ (sample .e3 .rd1 5 0 []).phase ≠ .respond ∧
      ∃ t, step (sample .e3 .rd1 5 0 []) = .next t) ∧
    (sample .respond .rd1 5 0 []).phase = .respond ∧ (sample .respond .rdn 5 0 []).phase = .respond ∧
      (sample .respond .cmd 5 0 []).op ≠ .rd1 ∧ (sample .respond .cmd 5 0 []).op ≠ .rdn :=
  ⟨⟨by decide, by decide, _, rfl⟩, by decide⟩

/-- The second byte of a write that no reply answers. -/
theorem witness_UnansweredExchangeIsStuck :
    (sample .xp .wr1 5 0xAA []).Inv ∧ (sample .xp .wr1 5 0xAA []).stuck := ⟨writing_inv _, by decide⟩

theorem witness_ConstructionCompletes : unbuilt.phase = .uninit := by decide

theorem witness_ConstructedBlockIsReady : unbuilt.Inv ∧ unbuilt.phase = .uninit := ⟨unbuilt_inv, by decide⟩

/-- A second `INIT` while the block waits and while it is busy. -/
theorem witness_SecondConstructionIsRefused :
    (ready []).phase ≠ .uninit ∧ (sample .xp .wr1 5 0xAA []).phase ≠ .uninit := by decide

theorem witness_OperationBeforeConstructionIsRefused : unbuilt.phase = .uninit := by decide

theorem witness_BusyBlockTakesNoRequest : (sample .xp .wr1 5 0xAA []).phase.waitsForCaller = false := by decide

theorem witness_ReadSingleByte :
    fieldOpc 0x0105FFFFFFFFFFFF = 0x01 ∧
    ((ready [0xFF, 0x00]).phase = .idle ∧ (29 : Byte).toNat < (ready [0xFF, 0x00]).par.numRegisters ∧
        (ready [0xFF, 0x00]).replies = [0xFF, 0x00]) ∧
      ((ready []).phase = .idle ∧ (ready []).par.numRegisters ≤ (30 : Byte).toNat) := by decide

/-- The shortest and the longest read, and an invalid one. -/
theorem witness_ReadMultipleBytes :
    fieldOpc 0x020A050000000000 = 0x02 ∧
    ((ready [0x0E]).phase = .idle ∧ (ready [0x0E]).rxbuf.wf = true ∧ (0 : Byte).toNat < (ready [0x0E]).par.numRegisters ∧
        (ready [0x0E]).replies = 0x0E :: ([] ++ []) ∧ ([] : List Byte).length = (0 : Byte).toNat) ∧
      ((ready (0x0E :: (List.replicate 255 0x11 ++ []))).replies = 0x0E :: (List.replicate 255 0x11 ++ []) ∧
        (List.replicate 255 (0x11 : Byte)).length = (255 : Byte).toNat) ∧
      (ready []).par.numRegisters ≤ (64 : Byte).toNat :=
  ⟨by decide, by decide, ⟨rfl, List.length_replicate⟩, by decide⟩

theorem witness_BareCommand :
    fieldOpc 0x03E1000000000000 = 0x03 ∧ (ready [0x0E]).phase = .idle ∧ (ready [0x0E]).replies = [0x0E] := by decide

theorem witness_WriteSingleByte :
    fieldOpc 0x0405AA0000000000 = 0x04 ∧
    ((ready [0x0E, 0x00]).phase = .idle ∧ (29 : Byte).toNat < (ready [0x0E, 0x00]).par.numRegisters ∧
        (ready [0x0E, 0x00]).replies = [0x0E, 0x00]) ∧
      (ready []).par.numRegisters ≤ (0xFF : Byte).toNat := by decide

/-- The shortest and the longest write, and an invalid one. -/
theorem witness_WriteMultipleBytes :
    fieldOpc 0x050A050000000000 = 0x05 ∧
    ((ready [0x0E]).phase = .idle ∧ (0 : Byte).toNat < (ready [0x0E]).par.numRegisters ∧
        (ready [0x0E]).replies = 0x0E :: ([] ++ []) ∧ ([] : List Byte).length = (0 : Byte).toNat) ∧
      ((ready (0x0E :: (List.replicate 255 0x00 ++ []))).replies = 0x0E :: (List.replicate 255 0x00 ++ []) ∧
        (List.replicate 255 (0x00 : Byte)).length = (255 : Byte).toNat) ∧
      (ready []).par.numRegisters ≤ (200 : Byte).toNat :=
  ⟨by decide, by decide, ⟨rfl, List.length_replicate⟩, by decide⟩

theorem witness_ReadCommandByteIsSent :
    (sample .x0 .rdn 29 0 [0x0E]).phase = .x0 ∧ (sample .x0 .rdn 29 0 [0x0E]).op = .rdn ∧
      (29 : Byte).toNat < (sample .x0 .rdn 29 0 [0x0E]).par.numRegisters ∧
      (sample .x0 .rdn 29 0 [0x0E]).cmdb = (sample .x0 .rdn 29 0 [0x0E]).par.readBase ||| 29 ∧
      (sample .x0 .rdn 29 0 [0x0E]).replies = [0x0E] := by decide

theorem witness_WriteCommandByteIsSent :
    (sample .x0 .wr1 0 0xAA [0x0E]).phase = .x0 ∧ (sample .x0 .wr1 0 0xAA [0x0E]).op = .wr1 ∧
      (0 : Byte).toNat < (sample .x0 .wr1 0 0xAA [0x0E]).par.numRegisters ∧
      (sample .x0 .wr1 0 0xAA [0x0E]).cmdb = (sample .x0 .wr1 0 0xAA [0x0E]).par.writeBase ||| 0 ∧
      (sample .x0 .wr1 0 0xAA [0x0E]).replies = [0x0E] := by decide

/-- Out of place by the phase, by the operation, by the index, by the byte. -/
theorem witness_CommandByteOutOfPlaceIsRefused :
    (ready []).phase ≠ .x0 ∧ ((sample .x0 .cmd 5 0 []).op ≠ .rd1 ∧ (sample .x0 .cmd 5 0 []).op ≠ .rdn) ∧
      (sample .x0 .rd1 5 0 []).par.numRegisters ≤ (30 : Byte).toNat ∧
      (sample .x0 .rd1 5 0 []).cmdb ≠ (sample .x0 .rd1 5 0 []).par.readBase ||| 6 ∧
      ((sample .x0 .rd1 5 0 []).op ≠ .wr1 ∧ (sample .x0 .rd1 5 0 []).op ≠ .wrn) ∧
      (sample .x0 .wr1 5 0 []).cmdb ≠ (sample .x0 .wr1 5 0 []).par.writeBase ||| 6 := by decide

theorem witness_UnansweredCommandByteHangs :
    (ready []).phase = .idle ∧ (ready []).replies = [] ∧ (29 : Byte).toNat < (ready []).par.numRegisters := by decide

/-- Program P4. -/
theorem witness_PartlyAnsweredReadHangs :
    (ready [0x0E, 0x41]).phase = .idle ∧ (ready [0x0E, 0x41]).rxbuf.wf = true ∧
      (7 : Byte).toNat < (ready [0x0E, 0x41]).par.numRegisters ∧ (ready [0x0E, 0x41]).replies = 0x0E :: [0x41] ∧
      ([0x41] : List Byte).length < (3 : Byte).toNat := by decide

theorem witness_PartlyAnsweredWriteHangs :
    (ready [0x0E, 0x00]).phase = .idle ∧ (29 : Byte).toNat < (ready [0x0E, 0x00]).par.numRegisters ∧
      (ready [0x0E, 0x00]).replies = 0x0E :: [0x00] ∧ ([0x00] : List Byte).length < (2 : Byte).toNat := by decide

theorem witness_PartlyAnsweredSingleHangs :
    (ready [0x0E]).phase = .idle ∧ (29 : Byte).toNat < (ready [0x0E]).par.numRegisters ∧
      (ready [0x0E]).replies = [0x0E] := by decide

theorem witness_ReadFrame :
    (ready []).rxbuf.wf = true ∧ (∃ t, exec (.rd1 5 0) (ready []) = .next t) ∧
      (∃ t, exec (.rdn 30 4) (ready []) = .next t) ∧ (4 : Byte).toNat ≤ (4 : Byte).toNat :=
  ⟨rfl, ⟨_, rfl⟩, ⟨_, rfl⟩, by decide⟩

theorem witness_CommandFrame : ∃ t, exec (.cmd 0xE1 0) (ready [0x0E]) = .next t := ⟨_, rfl⟩

theorem witness_WriteFrame :
    (∃ t, exec (.wr1 5 0xAA) (ready [0x0E, 0x00]) = .next t) ∧ ∃ t, exec (.wrn 10 0) (ready [0x0E]) = .next t :=
  ⟨⟨_, rfl⟩, _, rfl⟩

theorem witness_ConstructionFrame : ∃ t, exec (.init 4000000 7 0) unbuilt = .next t := ⟨_, rfl⟩

theorem witness_CommandByteFrame :
    (∃ t, exec (.wireRReg 5) (sample .x0 .rd1 5 0 [0x0E]) = .next t) ∧
      ∃ t, exec (.wireWReg 5) (sample .x0 .wr1 5 0 [0x0E]) = .next t := ⟨⟨_, rfl⟩, _, rfl⟩

theorem witness_InvalidIndexLeavesTheBusAlone :
    (ready []).phase = .idle ∧ (ready []).rxbuf.wf = true ∧ (ready []).par.numRegisters ≤ (30 : Byte).toNat := by decide

/-- A status other than the sentinel, of each read; and the sentinel as the status of a valid read. -/
theorem witness_SentinelIsAmbiguous :
    seen State.responses (exec (.rd1 5 0) (ready [0x0E, 0xAA])) =
        some ((ready [0x0E, 0xAA]).responses ++ [.statusValue 0x0E 0xAA]) ∧
      seen State.responses (exec (.rdn 10 0) (ready [0x0E])) = some ((ready [0x0E]).responses ++ [.status 0x0E]) ∧
      ((ready [0xFF, 0x00]).phase = .idle ∧ (5 : Byte).toNat < (ready [0xFF, 0x00]).par.numRegisters ∧
        (ready [0xFF, 0x00]).replies = [0xFF, 0x00] ∧ (ready [0xFF, 0x00]).rxbuf.wf = true ∧
        (1 : Byte).toNat ≤ [(0x00 : Byte)].length) ∧
      (ready []).par.numRegisters ≤ (30 : Byte).toNat := by decide

theorem witness_AnsweredOperationsComplete :
    (ready (List.replicate 256 0)).Inv ∧ (ready (List.replicate 256 0)).phase = .idle ∧
      256 ≤ (ready (List.replicate 256 0)).replies.length :=
  ⟨ready_inv _, rfl, List.length_replicate.ge⟩

theorem witness_ExchangeCounts :
    seen State.phase (exec (.cmd 0xE1 0) (ready [0x0E])) = some .idle ∧ ¬ (0xE1 : Byte).toNat < (ready [0x0E]).par.numRegisters ∧
    (ready [0x0E]).phase = .idle ∧ (10 : Byte).toNat < (ready [0x0E]).par.numRegisters ∧
      seen State.phase (exec (.rdn 10 0) (ready [0x0E])) = some .idle ∧
      seen State.phase (exec (.cmd 10 0) (ready [0x0E])) = some .idle ∧
      seen State.phase (exec (.rd1 10 0) (ready [0x0E, 0x00])) = some .idle ∧
      seen State.phase (exec (.wr1 10 0) (ready [0x0E, 0x00])) = some .idle ∧
      seen State.phase (exec (.wrn 10 1) (ready [0x0E, 0x00])) = some .idle := by decide

/-- Two ready blocks that differ in what an earlier operation left. -/
theorem witness_StatelessBetweenOperations :
    ∃ t₁ t₂, exec (.rd1 5 0) (ready [0x0E, 0xAA]) = .next t₁ ∧
      exec (.rd1 5 0) { ready [0x0E, 0xAA] with op := .wrn, idx := 9, status := 0xFF, value := 1, cnt := 3 } = .next t₂ ∧
      (ready [0x0E, 0xAA]).phase = .idle := ⟨_, _, rfl, rfl, rfl⟩

theorem witness_ReadOfLengthOneIsSingleRead :
    ∃ t u, (ready [0x0E, 0x11]).phase = .idle ∧ exec (.rd1 10 0) (ready [0x0E, 0x11]) = .next t ∧
      exec (.rdn 10 1) (ready [0x0E, 0x11]) = .next u := ⟨_, _, rfl, rfl, rfl⟩

theorem witness_WriteOfLengthOneIsSingleWrite :
    ∃ t u, (ready [0x0E, 0x00]).phase = .idle ∧
      exec (.wr1 10 ((ready [0x0E, 0x00]).txbuf.read 0)) (ready [0x0E, 0x00]) = .next t ∧
      exec (.wrn 10 1) (ready [0x0E, 0x00]) = .next u := ⟨_, _, rfl, rfl, rfl⟩

theorem witness_IgnoredFieldHasNoEffect :
    (∃ t u, exec (.rd1 5 0) (ready [0x0E]) = .next t ∧ exec (.rd1 5 0xFF) (ready [0x0E]) = .next u) ∧
      (∃ t u, exec (.cmd 5 0) (ready [0x0E]) = .next t ∧ exec (.cmd 5 0xFF) (ready [0x0E]) = .next u) ∧
      ∃ t u, exec (.init 1 5 0) unbuilt = .next t ∧ exec (.init 1 5 0xFF) unbuilt = .next u :=
  ⟨⟨_, _, rfl, rfl⟩, ⟨_, _, rfl, rfl⟩, _, _, rfl, rfl⟩

/-- A final block with a store still to come, and a last response. -/
theorem witness_RunEndsWithTheLastResponse :
    (calls (.store .tx 0 0x12) (ready [])).final ∧ ((ready []).Inv ∧ (ready []).final) ∧
      (sample .respond .wr1 5 0xAA []).Inv ∧ (sample .respond .wr1 5 0xAA []).caller = [] ∧
      seen State.responses (step (sample .respond .wr1 5 0xAA [])) = some [.completion] :=
  ⟨by decide, ⟨ready_inv _, by decide⟩, by constructor <;> decide, rfl, by decide⟩

/-- A second `INIT`, an operation before `INIT`, and a reserved code. -/
theorem witness_RefusedRequestIsNeverFollowed :
    ((calls (.request 0x00070000003D0900) (ready [])).phase.waitsForCaller = true ∧
        ¬ ((calls (.request 0x00070000003D0900) (ready [])).phase = .uninit ↔ fieldOpc 0x00070000003D0900 = 0)) ∧
      (unbuilt.phase.waitsForCaller = true ∧ ¬ (unbuilt.phase = .uninit ↔ fieldOpc 0x0105000000000000 = 0)) ∧
      0x06 ≤ fieldOpc 0x0600000000000000 := by decide

/-- Two blocks at power-on break no launch premise: their designators are unspecified. -/
theorem test_unbuilt_blocks_launch : LaunchPremises [unbuilt, unbuilt] := ⟨by decide, by decide⟩

/-- Two constructed blocks with one designator break one. -/
theorem test_equal_designators_barred : ¬ LaunchPremises [ready [], ready []] := fun h => absurd h.ownLine (by decide)

/-- A ready block with chip-select 8. -/
def neighbour : State :=
  { ready [] with cfgCs := 8, trace := [.csMode 8 .output, .csWrite 8 .high, .busInit] }

/-- Two constructed blocks under the launch premises: one on the bus, one with another chip-select line, waiting. -/
theorem witness_OneBlockHoldsTheBus :
    LaunchPremises [sample .xp .wr1 5 0xAA [], neighbour] ∧
      ∀ s ∈ [sample .xp .wr1 5 0xAA [], neighbour], s.Inv :=
  ⟨⟨by decide, by decide⟩, by
    intro s hs
    rcases List.mem_pair.mp hs with rfl | rfl
    · exact writing_inv _
    · constructor <;> decide⟩

end Sys2Proof.Tests
end

section
/-! `IDX_BITS` (R9): the model's search for it is `Nat.findGreatest`, and the remainders it tests are the rule's masks. -/

namespace Sys2Proof

/-- A mask of `n` ones keeps the remainder modulo `2 ^ n`, also where the mask is cut to the word's width. -/
theorem toNat_and_lowMask {w : Nat} (b : BitVec w) (n : Nat) :
    (b &&& BitVec.ofNat w (2 ^ n - 1)).toNat = b.toNat % 2 ^ n :=
  calc (b &&& BitVec.ofNat w (2 ^ n - 1)).toNat
      = (b.toNat % 2 ^ w) &&& ((2 ^ n - 1) % 2 ^ w) := by
        rw [BitVec.toNat_and, BitVec.toNat_ofNat, Nat.mod_eq_of_lt b.isLt]
    _ = (b.toNat % 2 ^ n) % 2 ^ w := by rw [← Nat.and_mod_two_pow, Nat.and_two_pow_sub_one_eq_mod]
    _ = b.toNat % 2 ^ n := Nat.mod_eq_of_lt ((Nat.mod_le _ _).trans_lt b.isLt)

/-- The mask test of R9 on one base is the model's remainder test. -/
theorem and_lowMask_eq_zero_iff {w : Nat} (b : BitVec w) (n : Nat) :
    b &&& BitVec.ofNat w (2 ^ n - 1) = 0 ↔ b.toNat % 2 ^ n = 0 := by
  rw [← toNat_and_lowMask, BitVec.toNat_eq]
  rfl

theorem ParamSet.lowBitsFree_iff (p : ParamSet) (n : Nat) :
    p.lowBitsFree n = true ↔
      p.readBase &&& BitVec.ofNat 8 (2 ^ n - 1) = 0 ∧ p.writeBase &&& BitVec.ofNat 8 (2 ^ n - 1) = 0 := by
  simp only [ParamSet.lowBitsFree, Bool.and_eq_true, decide_eq_true_eq, and_lowMask_eq_zero_iff]

theorem ParamSet.lowBitsFree_zero (p : ParamSet) : p.lowBitsFree 0 = true := by
  simp [ParamSet.lowBitsFree, Nat.mod_one]

theorem ParamSet.freeBitsUpTo_eq_findGreatest (p : ParamSet) (bound : Nat) :
    p.freeBitsUpTo bound = Nat.findGreatest (fun n => p.lowBitsFree n = true) bound := by
  induction bound with
  | zero => rfl
  | succ n ih => rw [ParamSet.freeBitsUpTo, Nat.findGreatest_succ, ih]

theorem ParamSet.idxBits_eq_findGreatest (p : ParamSet) :
    p.idxBits = Nat.findGreatest (fun n => p.lowBitsFree n = true) 8 :=
  p.freeBitsUpTo_eq_findGreatest 8

theorem ParamSet.idxBits_le (p : ParamSet) : p.idxBits ≤ 8 :=
  p.idxBits_eq_findGreatest ▸ Nat.findGreatest_le 8

theorem ParamSet.lowBitsFree_idxBits (p : ParamSet) : p.lowBitsFree p.idxBits = true := by
  rw [p.idxBits_eq_findGreatest]
  exact Nat.findGreatest_spec (P := fun n => p.lowBitsFree n = true) (Nat.zero_le 8) p.lowBitsFree_zero

theorem ParamSet.le_idxBits (p : ParamSet) {n : Nat} (hn : n ≤ 8) (hfree : p.lowBitsFree n = true) :
    n ≤ p.idxBits :=
  p.idxBits_eq_findGreatest ▸ Nat.le_findGreatest hn hfree

/-- Settles O1: `IDX_BITS` is a greatest element, by the laws of `Nat.findGreatest` read through `lowBitsFree_iff`. -/
theorem indexBitsAreTheLargest : Obligations.IndexBitsAreTheLargest := by
  intro p
  refine ⟨⟨p.idxBits_le, ?_⟩, fun n hn hread hwrite => ?_⟩
  · exact (p.lowBitsFree_iff _).mp p.lowBitsFree_idxBits
  · exact p.le_idxBits hn ((p.lowBitsFree_iff n).mpr ⟨hread, hwrite⟩)

end Sys2Proof
end

section
/-! Reserved descriptors (R57): which codes the decoder reads, and what the step is for a request. -/

namespace Sys2Proof

/-- `OPC` alone decides whether a descriptor is an instruction (R55, R57): no other field is looked at. -/
theorem exists_decodeDescriptor_of_opc_lt {w : Descriptor} (hw : fieldOpc w < 0x06) :
    ∃ i, decodeDescriptor w = .ok i := by
  have hlt : (fieldOpc w).toNat < 6 := hw
  unfold decodeDescriptor
  interval_cases (fieldOpc w).toNat <;> exact ⟨_, rfl⟩

namespace Machine

theorem step_request {s : State} {w : Descriptor} {rest : List CallerMove} (hs : s.phase.waitsForCaller = true)
    (hc : s.caller = .request w :: rest) : step s = takeRequest w s := by
  rw [step_waiting hs, takeMove, hc]

/-- Settles O8: a refused request leaves the whole state (`takeRequest_refused`), so the caller's list is left too; and
the decoder reads all six codes below 0x06. -/
theorem reservedDescriptorIsRefused : Obligations.ReservedDescriptorIsRefused := by
  refine ⟨fun s w rest hs hc hw => ⟨s.caller, ?_⟩, fun w hw => exists_decodeDescriptor_of_opc_lt hw⟩
  calc step s = takeRequest w s := step_request hs hc
    _ = .next s := takeRequest_refused hs (.inl hw)

end Machine

end Sys2Proof
end

section
/-! The transaction bracket (R64, R65, R68 to R71): the step in each phase is that phase's row, so each obligation is
read off its row's own lemma. -/

namespace Sys2Proof.Machine

variable {s : State}

/-! ### The step in a busy phase -/

theorem step_gate (hp : s.phase = .gate) : step s = .next (rowGate s) := by
  simp [step_busy, Phase.waitsForCaller, advance, hp]

theorem step_x0 (hp : s.phase = .x0) : step s = .next (rowX0 s) := by
  simp [step_busy, Phase.waitsForCaller, advance, hp]

theorem step_xp (hp : s.phase = .xp) : step s = .next (rowXp s) := by
  simp [step_busy, Phase.waitsForCaller, advance, hp]

theorem step_respond (hp : s.phase = .respond) : step s = .next (rowRespond s) := by
  simp [step_busy, Phase.waitsForCaller, advance, hp]

/-- A run of any core goes through a step that answers. -/
theorem run_succ_of_step_next {M : Host.Core} {u v : M.State} {n : Nat} (h : M.step u = .next v) :
    M.run (n + 1) u = M.run n v := by
  rw [Host.Core.run, h]

/-- Three steps of the machine are three rows of the sequencer while it is busy. -/
theorem core_run_three (h : s.phase.waitsForCaller = false) (h' : (advance s).phase.waitsForCaller = false)
    (h'' : (advance (advance s)).phase.waitsForCaller = false) :
    Host.Core.run core 3 s = .next (advance (advance (advance s))) := by
  calc Host.Core.run core 3 s
      = Host.Core.run core 2 (advance s) := run_succ_of_step_next (step_busy h)
    _ = Host.Core.run core 1 (advance (advance s)) := run_succ_of_step_next (step_busy h')
    _ = .next (advance (advance (advance s))) := run_succ_of_step_next (step_busy h'')

/-! ### The gate -/

theorem validIndex_iff {p : Params} {i : Byte} : validIndex p i = true ↔ i.toNat < p.numRegisters := by
  simp [validIndex]

/-- For an indexed operation the gate is the validity of its index (R68). -/
theorem passesGate_of_indexed (ho : indexed s.op = true) : passesGate s = validIndex s.par s.idx := by
  cases h : s.op with
  | rd1 | rdn | wr1 | wrn => simp [passesGate, h]
  | init | cmd => simp [indexed, h] at ho

theorem rowGate_pass (hg : passesGate s = true) : rowGate s = { s with cmdb := commandByte s, phase := .b1 } := by
  simp [rowGate, hg]

theorem rowGate_fail (hg : passesGate s = false) : rowGate s = { invalidResult s with phase := .respond } := by
  simp [rowGate, hg]

theorem step_gate_valid (hp : s.phase = .gate) (ho : indexed s.op = true) (hv : s.idx.toNat < s.par.numRegisters) :
    step s = .next { s with cmdb := commandByte s, phase := .b1 } := by
  rw [step_gate hp, rowGate_pass]
  rw [passesGate_of_indexed ho, validIndex_iff]
  exact hv

theorem step_gate_invalid (hp : s.phase = .gate) (ho : indexed s.op = true) (hv : s.par.numRegisters ≤ s.idx.toNat) :
    step s = .next { invalidResult s with phase := .respond } := by
  rw [step_gate hp, rowGate_fail]
  rw [passesGate_of_indexed ho, ← Bool.not_eq_true, validIndex_iff]
  exact hv.not_gt

theorem invalidResult_rd1 (ho : s.op = .rd1) :
    invalidResult s = { s with status := sentinelStatus, value := nextDraw s, draws := s.draws + 1 } := by
  simp [invalidResult, ho]

/-- An invalid `RDN` draws into the bytes of `RXBUF` below `LEN` alone (R68, R77). -/
theorem invalidResult_rdn (ho : s.op = .rdn) (hw : s.rxbuf.wf = true) :
    ∃ m n, invalidResult s = { s with status := sentinelStatus, rxbuf := m, draws := n } ∧
      ∀ k : Byte, s.len.toNat ≤ k.toNat → m.read k = s.rxbuf.read k := by
  obtain ⟨m, hm, hread⟩ := drawIntoRx_spec s.len.toNat { s with status := sentinelStatus }
  refine ⟨m, s.draws + s.len.toNat, ?_, (hread hw).2⟩
  simp only [invalidResult, ho]
  simpa only [ho] using hm

theorem invalidResult_write (ho : s.op = .wr1 ∨ s.op = .wrn) : invalidResult s = s := by
  rcases ho with ho | ho <;> simp [invalidResult, ho]

theorem commandByte_read (ho : s.op = .rd1 ∨ s.op = .rdn) : commandByte s = s.par.readBase ||| s.idx := by
  rcases ho with ho | ho <;> simp [commandByte, ho]

theorem commandByte_write (ho : s.op = .wr1 ∨ s.op = .wrn) : commandByte s = s.par.writeBase ||| s.idx := by
  rcases ho with ho | ho <;> simp [commandByte, ho]

theorem indexed_read (ho : s.op = .rd1 ∨ s.op = .rdn) : indexed s.op = true := by
  rcases ho with ho | ho <;> rw [ho] <;> rfl

theorem indexed_write (ho : s.op = .wr1 ∨ s.op = .wrn) : indexed s.op = true := by
  rcases ho with ho | ho <;> rw [ho] <;> rfl

/-- Settles O21: the gate tests the operation and its index alone, and each arm of R68 is the command byte or the
invalid result of its operation. -/
theorem gateStep : Obligations.GateStep := by
  intro s hp
  refine ⟨fun ho => ?_, fun ho hv => ?_, fun ho hv => ?_, fun ho hv => ?_, fun ho hv hw => ?_, fun ho hv => ?_⟩
  · rw [step_gate hp, rowGate_pass (by simp [passesGate, ho])]
    simp [commandByte, ho]
  · rw [step_gate_valid hp (indexed_read ho) hv, commandByte_read ho]
  · rw [step_gate_valid hp (indexed_write ho) hv, commandByte_write ho]
  · rw [step_gate_invalid hp (indexed_read (.inl ho)) hv, invalidResult_rd1 ho]
    exact ⟨nextDraw s, s.draws + 1, rfl⟩
  · obtain ⟨m, n, hm, hread⟩ := invalidResult_rdn ho hw
    rw [step_gate_invalid hp (indexed_read (.inr ho)) hv, hm]
    exact ⟨m, n, rfl, hread⟩
  · rw [step_gate_invalid hp (indexed_write ho) hv, invalidResult_write ho]

/-! ### Opening and closing the bracket -/

/-- Settles O22: rows `B1`, `B2` and `B3` in order, one downstream call each. -/
theorem beginOpensTheBracket : Obligations.BeginOpensTheBracket := by
  intro s hp
  have hb1 : advance s = rowB1 s := by simp [advance, hp]
  have hb2 : advance (rowB1 s) = rowB2 (rowB1 s) := rfl
  have hb3 : advance (rowB2 (rowB1 s)) = rowB3 (rowB2 (rowB1 s)) := rfl
  rw [core_run_three (by rw [hp]; rfl) (by rw [hb1]; rfl) (by rw [hb1, hb2]; rfl), hb1, hb2, hb3]
  simp [rowB1, rowB2, rowB3, busBegin, csWrite, delayUs, emit, csActive, csLevelOf]

/-- Settles O23: rows `E1`, `E2` and `E3` in order, one downstream call each. -/
theorem endClosesTheBracket : Obligations.EndClosesTheBracket := by
  intro s hp
  have he1 : advance s = rowE1 s := by simp [advance, hp]
  have he2 : advance (rowE1 s) = rowE2 (rowE1 s) := rfl
  have he3 : advance (rowE2 (rowE1 s)) = rowE3 (rowE2 (rowE1 s)) := rfl
  rw [core_run_three (by rw [hp]; rfl) (by rw [he1]; rfl) (by rw [he1, he2]; rfl), he1, he2, he3]
  simp [rowE1, rowE2, rowE3, busEnd, csWrite, delayUs, emit, csInactive, csLevelOf]

/-! ### The exchanges -/

theorem isRead_iff {op : Op} : isRead op = true ↔ op = .rd1 ∨ op = .rdn := by
  cases op <;> decide

theorem afterExchange_eq (cnt : Byte) :
    afterExchange s cnt = if cnt.toNat < (payloadCount s).toNat then .xp else .e1 := by
  simp [afterExchange, payloadLeft]

/-- After the command byte a payload byte is due where the frame has one (R50, R69). -/
theorem afterExchange_zero :
    afterExchange s 0 =
      if s.op = .rd1 ∨ s.op = .wr1 ∨ ((s.op = .rdn ∨ s.op = .wrn) ∧ s.len ≠ 0) then .xp else .e1 := by
  have hlen : 0 < s.len.toNat ↔ s.len ≠ 0 := by simp [Nat.pos_iff_ne_zero, BitVec.toNat_eq]
  cases ho : s.op <;> simp [afterExchange_eq, payloadCount, ho, hlen]

/-- Settles O24: the answered row `X0`, with the phase that the payload count of R50 gives. -/
theorem commandExchange : Obligations.CommandExchange := by
  intro s rx rest hp hr _
  rw [step_x0 hp, rowX0_cons hr, afterExchange_zero]
  simp only [isRead_iff]

/-- Below `N` the counter does not wrap, so the phase compares `CNT + 1` itself (R53, R70). -/
theorem afterExchange_succ {c : Byte} (h : c.toNat < (payloadCount s).toNat) :
    afterExchange s (c + 1) = if c.toNat + 1 < (payloadCount s).toNat then .xp else .e1 := by
  rw [afterExchange_eq, cnt_succ h]

theorem step_xp_cons {rx : Byte} {rest : List Byte} (hp : s.phase = .xp) (hr : s.replies = rx :: rest)
    (h : s.cnt.toNat < (payloadCount s).toNat) :
    step s = .next { s with
      trace := s.trace ++ [.xfer (payloadByte s) rx], replies := rest
      value := if s.op = .rd1 then rx else s.value
      rxbuf := if s.op = .rdn then s.rxbuf.write s.cnt rx else s.rxbuf
      cnt := s.cnt + 1
      phase := if s.cnt.toNat + 1 < (payloadCount s).toNat then .xp else .e1 } := by
  rw [step_xp hp, rowXp_cons hr, afterExchange_succ h]

/-- Settles O25: the invariant bounds `CNT` where the phase is entered, which leaves out `CMD`, whose count is 0; the
rest is the answered row `XP` for each operation. -/
theorem payloadExchange : Obligations.PayloadExchange := by
  refine ⟨fun s hi hp => ⟨hi.counting hp, fun ho => ?_⟩, fun s rx rest hp hr =>
    ⟨fun ho hc => ?_, fun ho hc => ?_, fun ho hc hw => ⟨s.rxbuf.write s.cnt rx, ?_, fun k => read_write hw⟩,
      fun ho hc => ?_⟩⟩
  · have hlt := hi.counting hp
    simp [payloadCount, ho] at hlt
  · rw [step_xp_cons hp hr (by simp [payloadCount, ho, hc])]
    simp [payloadByte, payloadCount, filler, ho, hc]
  · rw [step_xp_cons hp hr (by simp [payloadCount, ho, hc])]
    simp [payloadByte, payloadCount, ho, hc]
  · rw [step_xp_cons hp hr (by simpa [payloadCount, ho] using hc)]
    simp [payloadByte, payloadCount, filler, ho]
  · rw [step_xp_cons hp hr (by simpa [payloadCount, ho] using hc)]
    simp [payloadByte, payloadCount, ho]

/-! ### The response -/

theorem rowGate_responses : (rowGate s).responses = s.responses := by
  cases hg : passesGate s with
  | true => rw [rowGate_pass hg]
  | false =>
    obtain ⟨st, v, m, d, hres, -⟩ := invalidResult_spec s
    rw [rowGate_fail hg, hres]

theorem rowX0_responses : (rowX0 s).responses = s.responses := by
  cases hr : s.replies with
  | nil => rw [rowX0_nil hr]
  | cons rx rest => rw [rowX0_cons hr]

theorem rowXp_responses : (rowXp s).responses = s.responses := by
  cases hr : s.replies with
  | nil => rw [rowXp_nil hr]
  | cons rx rest => rw [rowXp_cons hr]

/-- Row `RESPOND` alone gives a response (R71). -/
theorem advance_responses (hp : s.phase ≠ .respond) : (advance s).responses = s.responses := by
  cases h : s.phase
  case gate => simp [advance, h, rowGate_responses]
  case x0 => simp [advance, h, rowX0_responses]
  case xp => simp [advance, h, rowXp_responses]
  case respond => exact absurd h hp
  all_goals simp [advance, h] <;> rfl

/-- The operations that keep no result answer with completion alone (R56). -/
theorem responseOf_not_read (hrd1 : s.op ≠ .rd1) (hrdn : s.op ≠ .rdn) : responseOf s = .completion := by
  cases ho : s.op with
  | rd1 => exact absurd ho hrd1
  | rdn => exact absurd ho hrdn
  | init | cmd | wr1 | wrn => simp [responseOf, ho]

/-- Settles O26: no row before `RESPOND` touches the responses, and row `RESPOND` gives the operation's record. -/
theorem respondStep : Obligations.RespondStep := by
  refine ⟨fun s t hw hp hst => ?_, fun s hp => ?_⟩
  · rw [step_busy hw] at hst
    exact Host.Outcome.next.inj hst ▸ advance_responses hp
  · rw [step_respond hp]
    refine ⟨fun ho => ?_, fun ho => ?_, fun hrd1 hrdn => ?_⟩
    · simp [rowRespond, responseOf, ho]
    · simp [rowRespond, responseOf, ho]
    · rw [rowRespond, responseOf_not_read hrd1 hrdn]

end Sys2Proof.Machine
end

section
/-! Refused requests around construction (R82, R83): which requests are turned away, and that a request turned away
leaves the whole state. -/

namespace Sys2Proof.Machine

/-- `INIT` is accepted in `UNINIT` alone, so also the busy phases turn it away (R83). -/
theorem admission_init_of_ne_uninit {ph : Phase} (hp : ph ≠ .uninit) : admission .init ph = .turnedAway := by
  simp [admission, hp]

theorem admission_uninit_of_ne_init {op : Op} (ho : op ≠ .init) : admission op .uninit = .turnedAway := by
  simp [admission, ho]

theorem perform_turnedAway {op : Op} {a b : Byte} {clk : Hertz} {s : State}
    (h : admission op s.phase = .turnedAway) : perform op a b clk s = .next s := by
  rw [perform, h]

/-- Before construction no operation but `INIT` is accepted (R82). -/
theorem perform_uninit {op : Op} {a b : Byte} {clk : Hertz} {s : State} (hp : s.phase = .uninit) (ho : op ≠ .init) :
    perform op a b clk s = .next s :=
  perform_turnedAway (hp ▸ admission_uninit_of_ne_init ho)

/-- Settles O30: outside `UNINIT` the request is turned away. -/
theorem secondConstructionIsRefused : Obligations.SecondConstructionIsRefused :=
  fun _ _ _ _ hp => perform_turnedAway (admission_init_of_ne_uninit hp)

/-- Settles O31: each of the five rows performs an operation other than `INIT`. -/
theorem operationBeforeConstructionIsRefused : Obligations.OperationBeforeConstructionIsRefused := by
  intro s a b hp
  have hrefused (op : Op) (ho : op ≠ .init) : perform op a b 0 s = .next s := perform_uninit hp ho
  exact ⟨hrefused .rd1 (by decide), hrefused .rdn (by decide), hrefused .cmd (by decide), hrefused .wr1 (by decide),
    hrefused .wrn (by decide)⟩

end Sys2Proof.Machine
end

section
/-! The ambiguous sentinel (R87). The events of the trace and those still to come add up to the same number in every
row of the sequencer, so an operation that has responded has made all its downstream calls: none for an index that
fails the gate, the whole bracket for a valid one, whatever the status. -/

namespace Sys2Proof.Machine

variable {s t : State}

/-! ### The events still to come -/

/-- The downstream calls the operation in flight still makes, if the environment answers them all (R72, R75). -/
def eventsLeft (s : State) : Nat :=
  match s.phase with
  | .uninit | .idle | .respond => 0
  | .c1 => 3
  | .c2 => 2
  | .c3 => 1
  | .gate => if passesGate s then 7 + (payloadCount s).toNat else 0
  | .b1 => 7 + (payloadCount s).toNat
  | .b2 => 6 + (payloadCount s).toNat
  | .b3 => 5 + (payloadCount s).toNat
  | .x0 => 4 + (payloadCount s).toNat
  | .xp => 3 + ((payloadCount s).toNat - s.cnt.toNat)
  | .e1 => 3
  | .e2 => 2
  | .e3 => 1

theorem eventsLeft_gate_pass (hp : s.phase = .gate) (hg : passesGate s = true) :
    eventsLeft s = 7 + (payloadCount s).toNat := by
  simp [eventsLeft, hp, hg]

theorem eventsLeft_idle (hp : s.phase = .idle) : eventsLeft s = 0 := by
  simp [eventsLeft, hp]

/-- After any exchange: the payload bytes that are left, and the three calls that close the bracket (R53, R65). -/
theorem eventsLeft_afterExchange (hp : s.phase = afterExchange s s.cnt) :
    eventsLeft s = 3 + ((payloadCount s).toNat - s.cnt.toNat) := by
  rw [afterExchange_eq] at hp
  split at hp
  · simp [eventsLeft, hp]
  · simp [eventsLeft, hp]
    omega

/-- What every row keeps: a payload exchange is due only for a byte that is left, and `c` is the number of events the
trace has when the operation ends. -/
structure EndsWithEvents (c : Nat) (s : State) : Prop where
  counting : s.phase = .xp → s.cnt.toNat < (payloadCount s).toNat
  total : s.trace.length + eventsLeft s = c

theorem EndsWithEvents.of_afterExchange {c : Nat} (hp : s.phase = afterExchange s s.cnt)
    (h : s.trace.length + (3 + ((payloadCount s).toNat - s.cnt.toNat)) = c) : EndsWithEvents c s where
  counting hxp := by
    rw [hxp, afterExchange_eq] at hp
    by_contra hlt
    simp [hlt] at hp
  total := eventsLeft_afterExchange hp ▸ h

theorem EndsWithEvents.after_rowGate {c : Nat} (h : EndsWithEvents c s) (hp : s.phase = .gate) :
    EndsWithEvents c (rowGate s) := by
  have htotal := h.total
  cases hg : passesGate s with
  | true =>
    rw [rowGate_pass hg]
    exact ⟨nofun, by simpa [eventsLeft, hp, hg, payloadCount] using htotal⟩
  | false =>
    obtain ⟨st, v, m, d, hres, -⟩ := invalidResult_spec s
    rw [rowGate_fail hg, hres]
    exact ⟨nofun, by simpa [eventsLeft, hp, hg] using htotal⟩

theorem EndsWithEvents.after_rowX0 {c : Nat} (h : EndsWithEvents c s) (hp : s.phase = .x0) :
    EndsWithEvents c (rowX0 s) := by
  cases hr : s.replies with
  | nil => rwa [rowX0_nil hr]
  | cons rx rest =>
    have htotal := h.total
    simp only [eventsLeft, hp] at htotal
    rw [rowX0_cons hr]
    refine .of_afterExchange rfl ?_
    simp [payloadCount] at htotal ⊢
    omega

theorem EndsWithEvents.after_rowXp {c : Nat} (h : EndsWithEvents c s) (hp : s.phase = .xp) :
    EndsWithEvents c (rowXp s) := by
  cases hr : s.replies with
  | nil => rwa [rowXp_nil hr]
  | cons rx rest =>
    have hlt := h.counting hp
    have hc := cnt_succ hlt
    have htotal := h.total
    simp only [eventsLeft, hp] at htotal
    rw [rowXp_cons hr]
    refine .of_afterExchange rfl ?_
    simp [payloadCount] at hlt hc htotal ⊢
    omega

theorem EndsWithEvents.after_advance {c : Nat} (h : EndsWithEvents c s) : EndsWithEvents c (advance s) := by
  have htotal := h.total
  cases hp : s.phase
  all_goals simp only [advance, hp]
  case uninit | idle => exact h
  case gate => exact h.after_rowGate hp
  case x0 => exact h.after_rowX0 hp
  case xp => exact h.after_rowXp hp
  all_goals
    refine ⟨nofun, ?_⟩
    simp [eventsLeft, hp, payloadCount, rowC1, rowC2, rowC3, rowB1, rowB2, rowB3, rowE1, rowE2, rowE3, rowRespond]
      at htotal ⊢
    omega

theorem EndsWithEvents.after_run {c : Nat} (h : EndsWithEvents c s) (n : Nat) : EndsWithEvents c (run n s) :=
  run_induct (fun _ hu => hu.after_advance) n s h

/-! ### A response is the end of an operation -/

/-- Until a run is back in `IDLE` it has given no response (R71). -/
theorem run_responses_of_ne_idle (n : Nat) (s : State) :
    (run n s).phase ≠ .idle → (run n s).responses = s.responses := by
  refine run_induct (P := fun u => u.phase ≠ .idle → u.responses = s.responses) (fun u hu hadv => ?_) n s
    fun _ => rfl
  by_cases hresp : u.phase = .respond
  · simp [advance, hresp, rowRespond] at hadv
  · rw [advance_responses hresp]
    refine hu fun hidle => hadv ?_
    simp [advance, hidle]

/-- A request that was answered made all its downstream calls. -/
theorem perform_trace_length {op : Op} {a b : Byte} {clk : Hertz} (h : perform op a b clk s = .next t)
    (hresp : t.responses ≠ s.responses) :
    t.trace.length = s.trace.length + eventsLeft (latchRequest op a b clk s) := by
  rcases perform_next h with ⟨-, rfl⟩ | ⟨-, rfl⟩
  · have hstart : EndsWithEvents (s.trace.length + eventsLeft (latchRequest op a b clk s))
        (latchRequest op a b clk s) :=
      ⟨fun hxp => by by_cases ho : op = .init <;> simp [ho] at hxp, rfl⟩
    have hidle : (run longestOperation (latchRequest op a b clk s)).phase = .idle := by
      by_contra hne
      exact hresp (run_responses_of_ne_idle _ _ hne)
    have hend := (hstart.after_run longestOperation).total
    rwa [eventsLeft_idle hidle] at hend
  · exact absurd rfl hresp

/-! ### The request in the latches -/

theorem exec_rd1 (idx b : Byte) (s : State) : exec (.rd1 idx b) s = perform .rd1 idx b 0 s := rfl

theorem exec_rdn (idx len : Byte) (s : State) : exec (.rdn idx len) s = perform .rdn idx len 0 s := rfl

theorem ne_init_of_indexed {op : Op} (ho : indexed op = true) : op ≠ .init := by
  rintro rfl
  cases ho

theorem latchRequest_phase_indexed {op : Op} {a b : Byte} {clk : Hertz} (ho : indexed op = true) :
    (latchRequest op a b clk s).phase = .gate :=
  if_neg (ne_init_of_indexed ho)

theorem passesGate_latchRequest {op : Op} {a b : Byte} {clk : Hertz} (ho : indexed op = true) :
    passesGate (latchRequest op a b clk s) = validIndex s.par a :=
  passesGate_of_indexed (s := latchRequest op a b clk s) ho

theorem passesGate_latchRequest_valid {op : Op} {a b : Byte} (ho : indexed op = true)
    (hv : a.toNat < s.par.numRegisters) : passesGate (latchRequest op a b 0 s) = true := by
  rw [passesGate_latchRequest ho, validIndex_iff]
  exact hv

theorem passesGate_latchRequest_invalid {op : Op} {a b : Byte} (ho : indexed op = true)
    (hv : s.par.numRegisters ≤ a.toNat) : passesGate (latchRequest op a b 0 s) = false := by
  rw [passesGate_latchRequest ho, ← Bool.not_eq_true, validIndex_iff]
  exact hv.not_gt

/-! ### Reads with an invalid index -/

theorem invalidResult_read (ho : s.op = .rd1 ∨ s.op = .rdn) :
    ∃ v m d, invalidResult s = { s with status := sentinelStatus, value := v, rxbuf := m, draws := d } := by
  rcases ho with ho | ho
  · exact ⟨_, s.rxbuf, _, invalidResult_rd1 ho⟩
  · obtain ⟨m, hm, -⟩ := drawIntoRx_spec s.len.toNat { s with status := sentinelStatus }
    exact ⟨s.value, m, s.draws + s.len.toNat, by simpa [invalidResult, ho] using hm⟩

/-- A read that fails the gate responds with the sentinel, without any event (R86). -/
theorem perform_read_invalid {op : Op} {a b : Byte} (ho : op = .rd1 ∨ op = .rdn) (hp : s.phase = .idle)
    (hv : s.par.numRegisters ≤ a.toNat) :
    ∃ t v, perform op a b 0 s = .next t ∧ t.trace = s.trace ∧
      t.responses = s.responses ++ [if op = .rd1 then .statusValue 0xFF v else .status 0xFF] := by
  have hi : indexed op = true := indexed_read (s := latchRequest op a b 0 s) ho
  have hgate := passesGate_latchRequest_invalid (b := b) hi hv
  obtain ⟨v, m, d, hres⟩ := invalidResult_read (s := latchRequest op a b 0 s) ho
  refine ⟨_, v, perform_idle hp (ne_init_of_indexed hi), ?_⟩
  rw [longestOperation, run_gate_fail (n := 262) (latchRequest_phase_indexed hi) hgate, hres]
  rcases ho with rfl | rfl <;> simp [responseOf, sentinelStatus]

/-! ### Reads with a valid index -/

theorem eventsLeft_valid {op : Op} {a b : Byte} (ho : indexed op = true) (hv : a.toNat < s.par.numRegisters) :
    eventsLeft (latchRequest op a b 0 s) = 7 + (payloadCount (latchRequest op a b 0 s)).toNat :=
  eventsLeft_gate_pass (latchRequest_phase_indexed ho) (passesGate_latchRequest_valid ho hv)

/-- `RD1` responds with the first two replies (R69, R70). -/
theorem run_rd1_responses {n : Nat} {st v : Byte} {rest : List Byte} (hp : s.phase = .gate)
    (hg : passesGate s = true) (ho : s.op = .rd1) (hr : s.replies = st :: v :: rest) :
    (run (n + 4 + 1 + 5) s).responses = s.responses ++ [.statusValue st v] := by
  rw [run_to_payload hp hg hr, run_xp (rx := v) (rest := rest) ?_ rfl, rowXp_cons (rx := v) (rest := rest) rfl,
    run_end]
  · simp [responseOf, isRead, ho]
  · simp [afterExchange, payloadLeft, payloadCount, ho]
  · simp [afterExchange, payloadLeft, payloadCount, ho]

/-- The payload exchanges of an answered `RDN` and its end leave the status for the response (R70, R71). -/
theorem run_payloads_rdn_responses {n len : Nat} (hp : s.phase = afterExchange s s.cnt) (hc : s.cnt = 0)
    (ho : s.op = .rdn) (hw : s.rxbuf.wf = true) (hlen : s.len.toNat = len) (hl : len ≤ s.replies.length) :
    (run (n + 4 + len) s).responses = s.responses ++ [.status s.status] := by
  have htake : (s.replies.take len).length = len := List.length_take_of_le hl
  obtain ⟨m, c, hcnt, hrun, -, -⟩ := run_reads (s.replies.take len) (n + 4) s (s.replies.drop len)
    ho hp (by simp [hc, hlen]) (List.take_append_drop _ _).symm hw
  rw [htake] at hrun hcnt
  have hend : afterExchange s c = .e1 := by simp [afterExchange_eq, payloadCount, ho, hcnt, hc, hlen]
  rw [hrun, run_end hend]
  simp [responseOf, ho]

/-- `RDN` responds with the first reply (R69). -/
theorem run_rdn_responses {n : Nat} {st : Byte} {rs : List Byte} (hp : s.phase = .gate)
    (hg : passesGate s = true) (ho : s.op = .rdn) (hw : s.rxbuf.wf = true) (hr : s.replies = st :: rs)
    (hl : s.len.toNat ≤ rs.length) :
    (run (n + 4 + s.len.toNat + 5) s).responses = s.responses ++ [.status st] := by
  rw [run_to_payload hp hg hr, run_payloads_rdn_responses (len := s.len.toNat) ?_ ?_ ?_ ?_ ?_ ?_]
  · simp [isRead, ho]
  · simp [afterExchange, payloadLeft, payloadCount]
  · rfl
  · exact ho
  · exact hw
  · rfl
  · exact hl

/-- A valid `RD1` that is answered responds with the replies, a status of 0xFF like any other (R76, R87). -/
theorem perform_rd1_responses {a b st v : Byte} {rest : List Byte} (hp : s.phase = .idle)
    (hv : a.toNat < s.par.numRegisters) (hr : s.replies = st :: v :: rest) :
    ∃ t, perform .rd1 a b 0 s = .next t ∧ t.responses = s.responses ++ [.statusValue st v] := by
  have hg := passesGate_latchRequest_valid (op := .rd1) (b := b) rfl hv
  exact ⟨_, perform_idle hp (by decide), run_rd1_responses (n := 254) rfl hg rfl hr⟩

/-- A valid `RDN` that is answered responds with the first reply, a status of 0xFF like any other (R77, R87). -/
theorem perform_rdn_responses {a b st : Byte} {rs : List Byte} (hp : s.phase = .idle)
    (hv : a.toNat < s.par.numRegisters) (hw : s.rxbuf.wf = true) (hr : s.replies = st :: rs)
    (hl : b.toNat ≤ rs.length) :
    ∃ t, perform .rdn a b 0 s = .next t ∧ t.responses = s.responses ++ [.status st] := by
  have hg := passesGate_latchRequest_valid (op := .rdn) (b := b) rfl hv
  have hfuel : longestOperation = 255 - b.toNat + 4 + b.toNat + 5 := by
    have := b.isLt
    simp only [longestOperation]
    omega
  refine ⟨_, perform_idle hp (by decide), ?_⟩
  rw [hfuel]
  exact run_rdn_responses rfl hg rfl hw hr hl

/-- With a valid index an answered read used the bus for the whole bracket (R75, R87). -/
theorem perform_valid_trace_length {op : Op} {a b : Byte} {r : Response} (ho : indexed op = true)
    (hv : a.toNat < s.par.numRegisters) (h : perform op a b 0 s = .next t) (hresp : t.responses = s.responses ++ [r]) :
    t.trace.length = s.trace.length + (7 + (payloadCount (latchRequest op a b 0 s)).toNat) := by
  rw [perform_trace_length h (by simp [hresp]), eventsLeft_valid ho hv]

/-- Any status but the sentinel proves the index valid (R87). -/
theorem validIndex_of_status {op : Op} {a b : Byte} {r : Response} (ho : op = .rd1 ∨ op = .rdn)
    (hp : s.phase = .idle) (h : perform op a b 0 s = .next t) (hresp : t.responses = s.responses ++ [r])
    (hr : ∀ v, r ≠ .statusValue 0xFF v) (hr' : r ≠ .status 0xFF) : a.toNat < s.par.numRegisters := by
  by_contra hv
  obtain ⟨t', v, ht', -, hresp'⟩ := perform_read_invalid (b := b) ho hp (not_lt.1 hv)
  obtain rfl : t = t' := Host.Outcome.next.inj (h.symm.trans ht')
  have heq := List.append_cancel_left (hresp.symm.trans hresp')
  simp only [List.cons.injEq, and_true] at heq
  split at heq
  · exact hr v heq
  · exact hr' heq

/-- Settles O51: an answered read with a valid index made `eventsLeft` calls whatever its status, one with an invalid
index responds with the sentinel alone, so any other status rules the invalid index out. -/
theorem sentinelIsAmbiguous : Obligations.SentinelIsAmbiguous := by
  simp only [Obligations.SentinelIsAmbiguous, exec_rd1, exec_rdn]
  refine ⟨fun s t idx b st v hp h hresp hst => ?_, fun s t idx len st hp h hresp hst => ?_,
    fun s idx b v rest hp hv hr => ?_, fun s idx len rs hp hv hw hr hl => ?_, fun s idx b hp hv => ⟨?_, ?_⟩⟩
  · have hv := validIndex_of_status (.inl rfl) hp h hresp (fun _ heq => hst (Response.statusValue.inj heq).1) nofun
    exact ⟨hv, perform_valid_trace_length rfl hv h hresp⟩
  · have hv := validIndex_of_status (.inr rfl) hp h hresp nofun (fun heq => hst (Response.status.inj heq))
    exact ⟨hv, perform_valid_trace_length rfl hv h hresp⟩
  · obtain ⟨t, h, hresp⟩ := perform_rd1_responses (b := b) hp hv hr
    exact ⟨t, h, hresp, perform_valid_trace_length rfl hv h hresp⟩
  · obtain ⟨t, h, hresp⟩ := perform_rdn_responses hp hv hw hr hl
    exact ⟨t, h, hresp, perform_valid_trace_length rfl hv h hresp⟩
  · obtain ⟨t, v, h, htrace, hresp⟩ := perform_read_invalid (b := b) (.inl rfl) hp hv
    exact ⟨t, v, h, hresp, htrace⟩
  · obtain ⟨t, v, h, htrace, hresp⟩ := perform_read_invalid (b := b) (.inr rfl) hp hv
    exact ⟨t, h, hresp, htrace⟩

end Sys2Proof.Machine
end

section
/-! Parameters (R16, R52): a well-formed set keeps the bits of the bases and those of the valid indices apart. -/

namespace Sys2Proof

/-- The four conditions of R16 as the spec gives them. -/
theorem ParamSet.wellFormed_iff (p : ParamSet) :
    p.wellFormed = true ↔
      p.readBase ≠ p.writeBase ∧ 1 ≤ p.idxBits ∧ (1 ≤ p.numRegisters ∧ p.numRegisters ≤ 2 ^ p.idxBits) ∧
        0 < p.tSettleUs := by
  simp only [ParamSet.wellFormed, Bool.and_eq_true, decide_eq_true_eq, and_assoc]

/-- The model takes a parameter set if it is well-formed (R16; log 1). -/
theorem Params.isSome_ofSet?_iff (p : ParamSet) : (Params.ofSet? p).isSome = true ↔ p.wellFormed = true := by
  unfold Params.ofSet?
  split
  · next h => simp [h]
  · next h => simp [h]

variable (p : Params)

theorem Params.readBase_ne_writeBase : p.readBase ≠ p.writeBase :=
  have ⟨hne, _⟩ := p.wellFormed_iff.1 p.wf
  hne

theorem Params.numRegisters_pos : 1 ≤ p.numRegisters :=
  have ⟨_, _, ⟨hpos, _⟩, _⟩ := p.wellFormed_iff.1 p.wf
  hpos

theorem Params.numRegisters_le : p.numRegisters ≤ 2 ^ p.idxBits :=
  have ⟨_, _, ⟨_, hle⟩, _⟩ := p.wellFormed_iff.1 p.wf
  hle

theorem Params.bases_and_indexMask : p.readBase &&& indexMask p = 0 ∧ p.writeBase &&& indexMask p = 0 :=
  (p.lowBitsFree_iff _).1 p.lowBitsFree_idxBits

/-- The index mask keeps the whole of a valid index (R51). -/
theorem Params.and_indexMask_of_valid {i : Byte} (hi : i.toNat < p.numRegisters) : i &&& indexMask p = i := by
  refine BitVec.eq_of_toNat_eq ((toNat_and_lowMask i p.idxBits).trans (Nat.mod_eq_of_lt ?_))
  exact hi.trans_le p.numRegisters_le

/-! ### A word whose bits lie outside a mask, OR one whose bits lie inside it -/

section Mask

variable {w : Nat} {b i m : BitVec w} (hb : b &&& m = 0) (hi : i &&& m = i)

include hb hi

theorem and_eq_zero_of_mask : b &&& i = 0 := by
  rw [← hi, BitVec.and_comm i m, ← BitVec.and_assoc, hb]
  exact BitVec.zero_and

theorem or_eq_add_of_mask : b ||| i = b + i :=
  (BitVec.add_eq_or_of_and_eq_zero b i (and_eq_zero_of_mask hb hi)).symm

theorem or_and_mask : (b ||| i) &&& m = i := by
  rw [BitVec.and_comm, BitVec.and_or_distrib_left, BitVec.and_comm m b, BitVec.and_comm m i, hb, hi]
  exact BitVec.zero_or

theorem or_and_not_mask : (b ||| i) &&& ~~~m = b := by
  apply BitVec.eq_of_getLsbD_eq
  intro k hk
  have hbk := congrArg (BitVec.getLsbD · k) hb
  have hik := congrArg (BitVec.getLsbD · k) hi
  simp only [BitVec.getLsbD_and, BitVec.getLsbD_or, BitVec.getLsbD_not, hk] at hbk hik ⊢
  cases hmk : m.getLsbD k <;> simp_all

end Mask

/-! ### Command bytes under a well-formed set -/

section Valid

variable {p} {i j : Byte} (hi : i.toNat < p.numRegisters) (hj : j.toNat < p.numRegisters)

include hi

theorem readByte_and_not_indexMask : (p.readBase ||| i) &&& ~~~indexMask p = p.readBase :=
  or_and_not_mask p.bases_and_indexMask.1 (p.and_indexMask_of_valid hi)

theorem writeByte_and_not_indexMask : (p.writeBase ||| i) &&& ~~~indexMask p = p.writeBase :=
  or_and_not_mask p.bases_and_indexMask.2 (p.and_indexMask_of_valid hi)

theorem readByte_and_indexMask : (p.readBase ||| i) &&& indexMask p = i :=
  or_and_mask p.bases_and_indexMask.1 (p.and_indexMask_of_valid hi)

theorem writeByte_and_indexMask : (p.writeBase ||| i) &&& indexMask p = i :=
  or_and_mask p.bases_and_indexMask.2 (p.and_indexMask_of_valid hi)

include hj

/-- The bits above the index tell the two kinds of command byte apart. -/
theorem readByte_ne_writeByte : p.readBase ||| i ≠ p.writeBase ||| j := by
  intro h
  refine p.readBase_ne_writeBase ?_
  rw [← readByte_and_not_indexMask hi, h, writeByte_and_not_indexMask hj]

end Valid

/-- Settles O2: the bits of a valid index lie inside the index mask, those of both bases outside it. -/
theorem wellFormedSetsKeepCommandBytesApart : Obligations.WellFormedSetsKeepCommandBytesApart := by
  refine ⟨fun p => (Params.isSome_ofSet?_iff p).trans p.wellFormed_iff,
    fun p i hi => ⟨⟨?_, ?_⟩, ⟨?_, ?_⟩, fun j hj => ?_⟩⟩
  · exact or_eq_add_of_mask p.bases_and_indexMask.1 (p.and_indexMask_of_valid hi)
  · exact or_eq_add_of_mask p.bases_and_indexMask.2 (p.and_indexMask_of_valid hi)
  · exact readByte_and_indexMask hi
  · exact writeByte_and_indexMask hi
  · exact readByte_ne_writeByte hi hj

/-- Eight free bits would make both bases zero, and so equal. -/
theorem Params.idxBits_le_seven : p.idxBits ≤ 7 := by
  by_contra hlt
  have hbits : p.idxBits = 8 := by have := p.idxBits_le; omega
  obtain ⟨hread, hwrite⟩ := p.bases_and_indexMask
  have hmask : indexMask p = BitVec.allOnes 8 := by rw [indexMask, hbits]; rfl
  rw [hmask, BitVec.and_allOnes] at hread hwrite
  exact p.readBase_ne_writeBase (hread.trans hwrite.symm)

theorem Params.numRegisters_le_128 : p.numRegisters ≤ 128 :=
  calc p.numRegisters ≤ 2 ^ p.idxBits := p.numRegisters_le
    _ ≤ 2 ^ 7 := Nat.pow_le_pow_right (by decide) p.idxBits_le_seven

/-- Settles O3: the index has at most seven bits, and there is at least one register. -/
theorem atMost128Registers : Obligations.AtMost128Registers := by
  intro p
  have hmax := p.numRegisters_le_128
  refine ⟨hmax, ?_, ?_⟩
  · exact decide_eq_false (by simp; omega)
  · exact decide_eq_true p.numRegisters_pos

end Sys2Proof
end

section
/-! The encoding (R51, R54, R55): a descriptor is its four fields and the reserved byte side by side, so each field
reads back what was packed, and packing the fields of a descriptor clears the bits no field takes. -/

namespace Sys2Proof

/-! ### The fields of a packed descriptor -/

theorem packDescriptor_toNat (opc a b : Byte) (clk : Hertz) :
    (packDescriptor opc a b clk).toNat =
      opc.toNat * 2 ^ 56 + a.toNat * 2 ^ 48 + b.toNat * 2 ^ 40 + clk.toNat := by
  have := opc.isLt
  have := a.isLt
  have := b.isLt
  have := clk.isLt
  rw [packDescriptor, BitVec.toNat_ofNat, Nat.mod_eq_of_lt (by omega)]

theorem fieldOpc_toNat (w : Descriptor) : (fieldOpc w).toNat = w.toNat / 2 ^ 56 := by
  have := w.isLt
  rw [fieldOpc, BitVec.extractLsb'_toNat, Nat.shiftRight_eq_div_pow]
  omega

theorem fieldA_toNat (w : Descriptor) : (fieldA w).toNat = w.toNat / 2 ^ 48 % 2 ^ 8 := by
  rw [fieldA, BitVec.extractLsb'_toNat, Nat.shiftRight_eq_div_pow]

theorem fieldB_toNat (w : Descriptor) : (fieldB w).toNat = w.toNat / 2 ^ 40 % 2 ^ 8 := by
  rw [fieldB, BitVec.extractLsb'_toNat, Nat.shiftRight_eq_div_pow]

theorem fieldClk_toNat (w : Descriptor) : (fieldClk w).toNat = w.toNat % 2 ^ 32 := by
  rw [fieldClk, BitVec.extractLsb'_toNat, Nat.shiftRight_zero]

section Pack

variable (opc a b : Byte) (clk : Hertz)

@[simp] theorem fieldOpc_packDescriptor : fieldOpc (packDescriptor opc a b clk) = opc :=
  Laws.fieldOpc_pack opc a b clk

@[simp] theorem fieldA_packDescriptor : fieldA (packDescriptor opc a b clk) = a := by
  apply BitVec.eq_of_toNat_eq
  rw [fieldA_toNat, packDescriptor_toNat]
  omega

@[simp] theorem fieldB_packDescriptor : fieldB (packDescriptor opc a b clk) = b := by
  apply BitVec.eq_of_toNat_eq
  rw [fieldB_toNat, packDescriptor_toNat]
  omega

@[simp] theorem fieldClk_packDescriptor : fieldClk (packDescriptor opc a b clk) = clk := by
  apply BitVec.eq_of_toNat_eq
  rw [fieldClk_toNat, packDescriptor_toNat]
  omega

end Pack

/-! ### Decoding what was encoded -/

theorem decodeCommandByte_readByte {p : Params} {i : Byte} (hi : i.toNat < p.numRegisters) :
    decodeCommandByte p (p.readBase ||| i) = .ok (.wireRReg i) := by
  rw [decodeCommandByte, if_pos (readByte_and_not_indexMask hi), readByte_and_indexMask hi]

theorem decodeCommandByte_writeByte {p : Params} {i : Byte} (hi : i.toNat < p.numRegisters) :
    decodeCommandByte p (p.writeBase ||| i) = .ok (.wireWReg i) := by
  have hkind : (p.writeBase ||| i) &&& ~~~indexMask p ≠ p.readBase := by
    rw [writeByte_and_not_indexMask hi]
    exact p.readBase_ne_writeBase.symm
  rw [decodeCommandByte, if_neg hkind, if_pos (writeByte_and_not_indexMask hi), writeByte_and_indexMask hi]

/-- Settles O4: each field of the packed descriptor reads back, and a command byte with a valid index splits at the
index mask into its base and its index. -/
theorem decodeOfEncode : Obligations.DecodeOfEncode := by
  intro p i hwf
  cases i with
  | wireRReg idx => exact decodeCommandByte_readByte (of_decide_eq_true hwf)
  | wireWReg idx => exact decodeCommandByte_writeByte (of_decide_eq_true hwf)
  | init | rd1 | rdn | cmd | wr1 | wrn => simp [encode, decode, decodeDescriptor]

/-! ### Encoding what was decoded -/

/-- A packed descriptor is its fields side by side, the reserved byte zero. -/
theorem packDescriptor_eq_append (opc a b : Byte) (clk : Hertz) :
    packDescriptor opc a b clk = opc ++ a ++ b ++ 0#8 ++ clk := by
  have := a.isLt
  have := b.isLt
  have := clk.isLt
  apply BitVec.eq_of_toNat_eq
  rw [packDescriptor_toNat]
  simp only [BitVec.toNat_append, BitVec.toNat_ofNat, Nat.zero_mod, Nat.or_zero]
  rw [← Nat.shiftLeft_add_eq_or_of_lt a.isLt, ← Nat.shiftLeft_add_eq_or_of_lt b.isLt,
    ← Nat.shiftLeft_add_eq_or_of_lt clk.isLt]
  simp only [Nat.shiftLeft_eq]
  omega

/-- A descriptor is its fields and the reserved byte side by side (R54). -/
theorem descriptor_eq_append (w : Descriptor) :
    w = fieldOpc w ++ fieldA w ++ fieldB w ++ w.extractLsb' 32 8 ++ fieldClk w := by
  simp only [fieldOpc, fieldA, fieldB, fieldClk]
  repeat rw [BitVec.extractLsb'_append_extractLsb'_eq_extractLsb' (by decide)]
  exact BitVec.extractLsb'_eq_self.symm

/-- A mask that spares the three upper fields and drops the reserved byte. -/
theorem append_and_mask (opc a b r : Byte) (clk m : Hertz) :
    (opc ++ a ++ b ++ r ++ clk) &&&
        (BitVec.allOnes 8 ++ BitVec.allOnes 8 ++ BitVec.allOnes 8 ++ 0#8 ++ m) =
      packDescriptor opc a b (clk &&& m) := by
  rw [packDescriptor_eq_append]
  simp only [BitVec.and_append, BitVec.and_allOnes, BitVec.and_zero]

theorem descriptor_and_mask (w : Descriptor) (m : Hertz) :
    w &&& (BitVec.allOnes 8 ++ BitVec.allOnes 8 ++ BitVec.allOnes 8 ++ 0#8 ++ m : Descriptor) =
      packDescriptor (fieldOpc w) (fieldA w) (fieldB w) (fieldClk w &&& m) := by
  conv_lhs => rw [descriptor_eq_append w]
  exact append_and_mask _ _ _ _ _ _

/-- Packing the four fields of a descriptor clears its reserved byte alone (R54). -/
theorem packDescriptor_fields (w : Descriptor) :
    packDescriptor (fieldOpc w) (fieldA w) (fieldB w) (fieldClk w) = w &&& 0xFFFFFF00FFFFFFFF := by
  have h := descriptor_and_mask w (BitVec.allOnes 32)
  rw [BitVec.and_allOnes] at h
  exact h.symm

/-- Without `CLK`, the three upper fields are left (R54). -/
theorem packDescriptor_upper_fields (w : Descriptor) :
    packDescriptor (fieldOpc w) (fieldA w) (fieldB w) 0 = w &&& 0xFFFFFF0000000000 := by
  have h := descriptor_and_mask w 0
  rw [show fieldClk w &&& 0 = 0 from BitVec.and_zero] at h
  exact h.symm

/-- The encoder packs the fields the decoder read, `CLK` for `INIT` alone (R54, R55). -/
theorem encode_of_decodeDescriptor {p : Params} {w : Descriptor} {i : Instr} (h : decodeDescriptor w = .ok i) :
    encode p i =
      .descriptor (packDescriptor (fieldOpc w) (fieldA w) (fieldB w) (if fieldOpc w = 0 then fieldClk w else 0)) := by
  have hopc : fieldOpc w = BitVec.ofNat 8 (fieldOpc w).toNat := by simp
  unfold decodeDescriptor at h
  split at h <;> cases h
  all_goals
    next hcode =>
      rw [hcode] at hopc
      simp [encode, hopc]

/-- Settles O5: packing the four fields clears the reserved byte, packing the upper three `CLK` too. -/
theorem encodeOfDecode : Obligations.EncodeOfDecode := by
  intro p w i h
  rw [encode_of_decodeDescriptor h]
  split
  · rw [packDescriptor_fields]
  · rw [packDescriptor_upper_fields]

/-! ### What the decoder answers for each code (R55, R57) -/

section Decode

variable {w : Descriptor}

theorem decodeDescriptor_init (h : fieldOpc w = 0x00) :
    decodeDescriptor w = .ok (.init (fieldClk w) (fieldA w) (fieldB w)) := by simp [decodeDescriptor, h]

theorem decodeDescriptor_rd1 (h : fieldOpc w = 0x01) : decodeDescriptor w = .ok (.rd1 (fieldA w) (fieldB w)) := by
  simp [decodeDescriptor, h]

theorem decodeDescriptor_rdn (h : fieldOpc w = 0x02) : decodeDescriptor w = .ok (.rdn (fieldA w) (fieldB w)) := by
  simp [decodeDescriptor, h]

theorem decodeDescriptor_cmd (h : fieldOpc w = 0x03) : decodeDescriptor w = .ok (.cmd (fieldA w) (fieldB w)) := by
  simp [decodeDescriptor, h]

theorem decodeDescriptor_wr1 (h : fieldOpc w = 0x04) : decodeDescriptor w = .ok (.wr1 (fieldA w) (fieldB w)) := by
  simp [decodeDescriptor, h]

theorem decodeDescriptor_wrn (h : fieldOpc w = 0x05) : decodeDescriptor w = .ok (.wrn (fieldA w) (fieldB w)) := by
  simp [decodeDescriptor, h]

theorem decodeDescriptor_reserved (h : 6 ≤ (fieldOpc w).toNat) :
    decodeDescriptor w = .error (.reservedOperationCode (fieldOpc w)) := by
  unfold decodeDescriptor
  split
  case h_7 => rfl
  all_goals omega

end Decode

/-- The mask of R55 leaves the code as it is. -/
theorem fieldOpc_and_topMask (w : Descriptor) : fieldOpc (w &&& 0xFF00000000000000) = fieldOpc w := by
  rw [fieldOpc, BitVec.extractLsb'_and]
  exact BitVec.and_allOnes

/-- R55's match under the mask is a match of the code. -/
theorem fieldOpc_of_top {w v : Descriptor} (h : w &&& 0xFF00000000000000 = v) : fieldOpc w = fieldOpc v := by
  rw [← fieldOpc_and_topMask, h]

theorem fieldOpc_eq_ofNat (w : Descriptor) : fieldOpc w = BitVec.ofNat 8 (w.toNat / 2 ^ 56) := by
  rw [← fieldOpc_toNat, BitVec.ofNat_toNat, BitVec.setWidth_eq]

theorem fieldA_eq_ofNat (w : Descriptor) : fieldA w = BitVec.ofNat 8 (w.toNat / 2 ^ 48) :=
  BitVec.eq_of_toNat_eq ((fieldA_toNat w).trans (BitVec.toNat_ofNat _ _).symm)

theorem fieldB_eq_ofNat (w : Descriptor) : fieldB w = BitVec.ofNat 8 (w.toNat / 2 ^ 40) :=
  BitVec.eq_of_toNat_eq ((fieldB_toNat w).trans (BitVec.toNat_ofNat _ _).symm)

theorem fieldClk_eq_ofNat (w : Descriptor) : fieldClk w = BitVec.ofNat 32 w.toNat :=
  BitVec.eq_of_toNat_eq ((fieldClk_toNat w).trans (BitVec.toNat_ofNat _ _).symm)

theorem six_le_fieldOpc {w : Descriptor} (h : 0x0600000000000000 ≤ w) : 6 ≤ (fieldOpc w).toNat := by
  have hw : 0x0600000000000000 ≤ w.toNat := h
  rw [fieldOpc_toNat]
  omega

/-- Settles O6: the masked match is a match of the code, and each code has its own answer. -/
theorem descriptorFieldsDecode : Obligations.DescriptorFieldsDecode := by
  intro w
  simp only [← fieldA_eq_ofNat, ← fieldB_eq_ofNat, ← fieldClk_eq_ofNat, ← fieldOpc_eq_ofNat]
  exact ⟨fun h => decodeDescriptor_init (fieldOpc_of_top h), fun h => decodeDescriptor_rd1 (fieldOpc_of_top h),
    fun h => decodeDescriptor_rdn (fieldOpc_of_top h), fun h => decodeDescriptor_cmd (fieldOpc_of_top h),
    fun h => decodeDescriptor_wr1 (fieldOpc_of_top h), fun h => decodeDescriptor_wrn (fieldOpc_of_top h),
    fun h => decodeDescriptor_reserved (six_le_fieldOpc h)⟩

/-- Settles O7: fixed words, each evaluated by the decoder. -/
theorem workedDescriptorsDecode : Obligations.WorkedDescriptorsDecode :=
  ⟨rfl, rfl, rfl, rfl, rfl, rfl, rfl, rfl, rfl, rfl, rfl, rfl, rfl⟩

end Sys2Proof
end

section
/-! A step, said once: the row of a busy block, or the caller's move, a request being accepted and run or refused. And
the induction that follows: what every row, a move taken, a store and an accept keep, a step keeps. -/

namespace Sys2Proof.Machine

variable {s t : State}

theorem waitsForCaller_iff {ph : Phase} : ph.waitsForCaller = true ↔ ph = .uninit ∨ ph = .idle := by
  cases ph <;> decide

/-! ### Requests -/

/-- A decoded request is one of the six operations, `INIT` for the code 0 alone (R55). -/
theorem exec_of_decodeDescriptor {w : Descriptor} {i : Instr} (h : decodeDescriptor w = .ok i) :
    ∃ op a b clk, (op = .init ↔ fieldOpc w = 0) ∧ ∀ u, exec i u = perform op a b clk u := by
  have hopc : fieldOpc w = BitVec.ofNat 8 (fieldOpc w).toNat := by simp
  unfold decodeDescriptor at h
  split at h <;> cases h
  all_goals
    next hcode =>
      rw [hcode] at hopc
      refine ⟨_, _, _, _, ?_, fun _ => rfl⟩
      rw [hopc]
      decide

/-- An operation is accepted in the phase its code asks for (R67). -/
theorem admission_acceptingPhase {op : Op} {w : Descriptor} (ho : op = .init ↔ fieldOpc w = 0) :
    admission op (acceptingPhase w) = .accepted := by
  by_cases hw : fieldOpc w = 0
  · rw [admission, acceptingPhase, if_pos (ho.2 hw), if_pos hw]
    rfl
  · rw [admission, acceptingPhase, if_neg (mt ho.1 hw), if_neg hw]
    rfl

theorem perform_accepted {op : Op} {a b : Byte} {clk : Hertz} (h : admission op s.phase = .accepted) :
    perform op a b clk s = .next (run longestOperation (latchRequest op a b clk s)) := by
  rw [perform, h]

theorem takeRequest_accepted {w : Descriptor} {i : Instr} (hp : s.phase = acceptingPhase w)
    (hi : decodeDescriptor w = .ok i) : takeRequest w s = exec i (popMove s) := by
  rw [takeRequest, fetchRequest, hi]
  exact if_pos hp

/-- All a request of the waiting block's caller can do (R67, R74; log 9). -/
theorem takeRequest_next (hw : s.phase.waitsForCaller = true) (w : Descriptor) :
    takeRequest w s = .next s ∨
      ∃ op a b clk, admission op s.phase = .accepted ∧
        takeRequest w s = .next (run longestOperation (latchRequest op a b clk (popMove s))) := by
  by_cases href : 0x06 ≤ fieldOpc w ∨ s.phase ≠ acceptingPhase w
  · exact .inl (takeRequest_refused hw href)
  · rw [not_or, BitVec.not_le, not_not] at href
    obtain ⟨hlt, hp⟩ := href
    obtain ⟨i, hi⟩ := exists_decodeDescriptor_of_opc_lt hlt
    obtain ⟨op, a, b, clk, ho, hexec⟩ := exec_of_decodeDescriptor hi
    have hacc : admission op s.phase = .accepted := hp ▸ admission_acceptingPhase ho
    refine .inr ⟨op, a, b, clk, hacc, ?_⟩
    rw [takeRequest_accepted hp hi, hexec]
    exact perform_accepted (s := popMove s) hacc

/-- All a step can do (R67, R72, R74). -/
theorem step_next (h : step s = .next t) :
    (s.phase.waitsForCaller = false ∧ t = advance s) ∨
      (s.phase.waitsForCaller = true ∧
        (t = s ∨ (∃ b k v, t = storeByte b k v (popMove s)) ∨
          ∃ op a b clk, admission op s.phase = .accepted ∧
            t = run longestOperation (latchRequest op a b clk (popMove s)))) := by
  cases hw : s.phase.waitsForCaller with
  | false =>
    rw [step_busy hw] at h
    exact .inl ⟨rfl, (Host.Outcome.next.inj h).symm⟩
  | true =>
    rw [step_waiting hw] at h
    refine .inr ⟨rfl, ?_⟩
    rcases takeMove_cases s with ⟨-, hm⟩ | ⟨b, k, v, rest, hc, hm⟩ | ⟨w, rest, -, hm⟩
    · exact .inl (Host.Outcome.next.inj (h.symm.trans hm))
    · refine .inr (.inl ⟨b, k, v, ?_⟩)
      rw [popMove, hc]
      exact Host.Outcome.next.inj (h.symm.trans hm)
    · rcases takeRequest_next hw w with hr | ⟨op, a, b, clk, hacc, hr⟩
      · exact .inl (Host.Outcome.next.inj (h.symm.trans (hm.trans hr)))
      · exact .inr (.inr ⟨op, a, b, clk, hacc, Host.Outcome.next.inj (h.symm.trans (hm.trans hr))⟩)

/-- What every row, a move taken, a store and an accept keep, a step keeps. -/
theorem step_induct {P : State → Prop} (hrow : ∀ u, P u → P (advance u)) (hpop : ∀ u, P u → P (popMove u))
    (hstore : ∀ u b k v, P u → P (storeByte b k v u))
    (hlatch : ∀ u op a b clk, admission op u.phase = .accepted → P u → P (latchRequest op a b clk u))
    (h : step s = .next t) (hs : P s) : P t := by
  rcases step_next h with ⟨-, rfl⟩ | ⟨-, rfl | ⟨b, k, v, rfl⟩ | ⟨op, a, b, clk, hacc, rfl⟩⟩
  · exact hrow s hs
  · exact hs
  · exact hstore _ b k v (hpop s hs)
  · exact run_induct hrow _ _ (hlatch _ op a b clk hacc (hpop s hs))

/-- All a store changes (R59). -/
theorem storeByte_eq (b : Buffer) (k v : Byte) (s : State) :
    ∃ mt mr, storeByte b k v s = { s with txbuf := mt, rxbuf := mr } := by
  cases b with
  | tx => exact ⟨s.txbuf.write k v, s.rxbuf, rfl⟩
  | rx => exact ⟨s.txbuf, s.rxbuf.write k v, rfl⟩

/-- What does not speak of the buffers and the caller's moves: a step keeps it if every row and an accept keep it. -/
theorem step_induct_block {P : State → Prop} (hrow : ∀ u, P u → P (advance u))
    (hmove : ∀ u mt mr moves, P u → P { u with txbuf := mt, rxbuf := mr, caller := moves })
    (hlatch : ∀ u op a b clk, admission op u.phase = .accepted → P u → P (latchRequest op a b clk u))
    (h : step s = .next t) (hs : P s) : P t := by
  refine step_induct hrow (fun u hu => hmove u u.txbuf u.rxbuf u.caller.tail hu) (fun u b k v hu => ?_) hlatch h hs
  obtain ⟨mt, mr, hst⟩ := storeByte_eq b k v u
  exact hst ▸ hmove u mt mr u.caller hu

/-! ### What the caller's move is -/

/-- The waiting block is in the phase that accepts the request exactly when `UNINIT` and the code 0 meet (R67). -/
theorem phase_eq_acceptingPhase_iff {w : Descriptor} (hw : s.phase.waitsForCaller = true) :
    s.phase = acceptingPhase w ↔ (s.phase = .uninit ↔ fieldOpc w = 0) := by
  by_cases ho : fieldOpc w = 0#8
  · rcases waitsForCaller_iff.1 hw with hp | hp <;> simp [acceptingPhase, hp, ho]
  · rcases waitsForCaller_iff.1 hw with hp | hp <;> simp [acceptingPhase, hp, ho]

/-- Settles O9: an accepted request is taken off the list and run, a refused one leaves the state, and there the decoded
operation is turned away too. -/
theorem stepRunsTheDecodedRequest : Obligations.StepRunsTheDecodedRequest := by
  intro s w rest i hw hc hi
  have hstep : step s = takeRequest w s := step_request hw hc
  rw [← phase_eq_acceptingPhase_iff hw]
  refine ⟨fun hp => ?_, fun hp => ?_⟩
  · rw [hstep, takeRequest_accepted hp hi, popMove, hc]
    rfl
  · have hrefused : takeRequest w s = .next s := takeRequest_refused hw (.inr hp)
    refine ⟨?_, hstep.trans hrefused⟩
    rw [hstep, takeRequest, fetchRequest, hi]
    exact if_neg hp

/-- Settles O10: one store, one byte of the canonical form written. -/
theorem callerStoreChangesOneByte : Obligations.CallerStoreChangesOneByte := by
  intro s b k v rest hw hc htx hrx
  have hstep : step s = .next (storeByte b k v { s with caller := rest }) := by
    rw [step_waiting hw, takeMove, hc, popMove, hc]
    rfl
  cases b with
  | tx => exact ⟨s.txbuf.write k v, s.rxbuf, hstep, fun j => by simp [read_write htx], fun j => by simp⟩
  | rx => exact ⟨s.txbuf, s.rxbuf.write k v, hstep, fun j => by simp, fun j => by simp [read_write hrx]⟩

/-- A core whose step answers the same state stays there. -/
theorem run_of_step_eq {M : Host.Core} {u : M.State} (h : M.step u = .next u) (n : Nat) : M.run n u = .next u := by
  induction n with
  | zero => rfl
  | succ n ih => rw [run_succ_of_step_next h, ih]

/-- Settles O59: the refused request is still the caller's next move, so the next step refuses it again. -/
theorem refusedRequestIsNeverFollowed : Obligations.RefusedRequestIsNeverFollowed := by
  intro s w rest n hw hc href
  rw [← phase_eq_acceptingPhase_iff hw] at href
  refine ⟨run_of_step_eq (M := core) ((step_request hw hc).trans (takeRequest_refused hw href)) n, fun hfin => ?_⟩
  have hreq := hfin.2 (.request w) (by simp [hc])
  cases hreq

/-- Settles O11: the four values stand in the record. -/
theorem powerOnState : Obligations.PowerOnState := ⟨rfl, rfl, rfl, rfl⟩

end Sys2Proof.Machine
end

section
/-! One row of the sequencer, said once: the fields no row writes, and the event it appends with what that event does to
the line state (R27, R28, R30, R72). -/

namespace Sys2Proof.Machine

variable {s t u : State}

/-! ### What no row writes -/

/-- The request in flight, the configuration, the transmit buffer and the caller's moves are the same in both states. -/
structure SameRequest (s t : State) : Prop where
  par : t.par = s.par
  cfgClk : t.cfgClk = s.cfgClk
  cfgCs : t.cfgCs = s.cfgCs
  op : t.op = s.op
  idx : t.idx = s.idx
  len : t.len = s.len
  dat : t.dat = s.dat
  txbuf : t.txbuf = s.txbuf
  caller : t.caller = s.caller

theorem SameRequest.refl (s : State) : SameRequest s s := by constructor <;> rfl

theorem SameRequest.trans (h : SameRequest s t) (h' : SameRequest t u) : SameRequest s u where
  par := h'.par.trans h.par
  cfgClk := h'.cfgClk.trans h.cfgClk
  cfgCs := h'.cfgCs.trans h.cfgCs
  op := h'.op.trans h.op
  idx := h'.idx.trans h.idx
  len := h'.len.trans h.len
  dat := h'.dat.trans h.dat
  txbuf := h'.txbuf.trans h.txbuf
  caller := h'.caller.trans h.caller

theorem sameRequest_rowGate (s : State) : SameRequest s (rowGate s) := by
  cases hg : passesGate s with
  | true =>
    rw [rowGate_pass hg]
    constructor <;> rfl
  | false =>
    obtain ⟨st, v, m, d, hres, -⟩ := invalidResult_spec s
    rw [rowGate_fail hg, hres]
    constructor <;> rfl

theorem sameRequest_rowX0 (s : State) : SameRequest s (rowX0 s) := by
  cases hr : s.replies with
  | nil =>
    rw [rowX0_nil hr]
    exact .refl s
  | cons rx rest =>
    rw [rowX0_cons hr]
    constructor <;> rfl

theorem sameRequest_rowXp (s : State) : SameRequest s (rowXp s) := by
  cases hr : s.replies with
  | nil =>
    rw [rowXp_nil hr]
    exact .refl s
  | cons rx rest =>
    rw [rowXp_cons hr]
    constructor <;> rfl

theorem sameRequest_advance (s : State) : SameRequest s (advance s) := by
  cases hp : s.phase
  all_goals simp only [advance, hp]
  case gate => exact sameRequest_rowGate s
  case x0 => exact sameRequest_rowX0 s
  case xp => exact sameRequest_rowXp s
  all_goals constructor <;> rfl

theorem sameRequest_run (n : Nat) (s : State) : SameRequest s (run n s) :=
  run_induct (fun u hu => hu.trans (sameRequest_advance u)) n s (.refl s)

/-! ### Nothing leads back to `UNINIT` -/

theorem afterExchange_ne_uninit (c : Byte) : afterExchange s c ≠ .uninit := by
  rw [afterExchange_eq]
  split <;> nofun

theorem advance_ne_uninit (h : s.phase ≠ .uninit) : (advance s).phase ≠ .uninit := by
  cases hp : s.phase
  all_goals simp only [advance, hp]
  case uninit => exact absurd hp h
  case gate =>
    cases hg : passesGate s with
    | true => exact rowGate_pass hg ▸ nofun
    | false => exact rowGate_fail hg ▸ nofun
  case x0 =>
    cases hr : s.replies with
    | nil =>
      rw [rowX0_nil hr]
      exact h
    | cons rx rest => exact rowX0_cons hr ▸ afterExchange_ne_uninit 0
  case xp =>
    cases hr : s.replies with
    | nil =>
      rw [rowXp_nil hr]
      exact h
    | cons rx rest => exact rowXp_cons hr ▸ afterExchange_ne_uninit (s.cnt + 1)
  all_goals nofun

/-- Settles O18: no row leads to `UNINIT`, and accept leads to `C1` or to the gate. -/
theorem constructedForEver : Obligations.ConstructedForEver := by
  intro s t hs h
  refine step_induct_block (P := fun u => u.phase ≠ .uninit) (fun u => advance_ne_uninit) (fun u _ _ _ hu => hu)
    (fun u op a b clk _ _ => ?_) h hs
  by_cases ho : op = .init <;> simp [ho]

theorem ne_init_of_accepted {op : Op} {ph : Phase} (hp : ph ≠ .uninit) (h : admission op ph = .accepted) :
    op ≠ .init := by
  rintro rfl
  rw [admission_init_of_ne_uninit hp] at h
  cases h

/-- No step writes the parameter set (R8, R25). -/
theorem step_par (h : step s = .next t) : t.par = s.par :=
  step_induct_block (P := fun u => u.par = s.par) (fun u hu => (sameRequest_advance u).par.trans hu)
    (fun _ _ _ _ hu => hu) (fun _ _ _ _ _ _ hu => hu) h rfl

/-- Accept writes the configuration for `INIT` alone, and that in `UNINIT` alone (R24, R67). -/
theorem step_configuration (hs : s.phase ≠ .uninit) (h : step s = .next t) :
    t.phase ≠ .uninit ∧ t.cfgClk = s.cfgClk ∧ t.cfgCs = s.cfgCs := by
  refine step_induct_block (P := fun u => u.phase ≠ .uninit ∧ u.cfgClk = s.cfgClk ∧ u.cfgCs = s.cfgCs)
    (fun u ⟨hp, hclk, hcs⟩ => ?_) (fun _ _ _ _ hu => hu) (fun u op a b clk hacc ⟨hp, hclk, hcs⟩ => ?_) h
    ⟨hs, rfl, rfl⟩
  · have hsame := sameRequest_advance u
    exact ⟨advance_ne_uninit hp, hsame.cfgClk.trans hclk, hsame.cfgCs.trans hcs⟩
  · simp [ne_init_of_accepted hp hacc, hclk, hcs]

/-- Settles O17: no row writes either, and a constructed block does not accept `INIT`. -/
theorem configurationIsImmutable : Obligations.ConfigurationIsImmutable :=
  fun _ _ h => ⟨step_par h, fun hs => (step_configuration hs h).2⟩

/-! ### The event of a row -/

/-- The rows that call nothing downstream: none while the block waits, `GATE`, `RESPOND`, an exchange that is not
answered (R72). -/
def silentRow (s : State) : Prop :=
  s.phase.waitsForCaller = true ∨ s.phase = .gate ∨ s.phase = .respond ∨ awaitsReply s = true

/-- The trace and the line state do not change. -/
structure SameLine (s t : State) : Prop where
  trace : t.trace = s.trace
  csLevel : t.csLevel = s.csLevel
  busHeld : t.busHeld = s.busHeld

/-- The event is appended, and the line state is what it makes of it (R27, R28, R30). -/
structure AppendsEvent (e : Event) (s t : State) : Prop where
  trace : t.trace = s.trace ++ [e]
  csLevel : t.csLevel = levelStep s.csLevel e
  busHeld : t.busHeld = heldStep s.busHeld e

theorem SameLine.refl (s : State) : SameLine s s := ⟨rfl, rfl, rfl⟩

theorem sameLine_rowGate (s : State) : SameLine s (rowGate s) := by
  cases hg : passesGate s with
  | true => exact rowGate_pass hg ▸ ⟨rfl, rfl, rfl⟩
  | false =>
    obtain ⟨st, v, m, d, hres, -⟩ := invalidResult_spec s
    rw [rowGate_fail hg, hres]
    exact ⟨rfl, rfl, rfl⟩

theorem awaitsReply_iff : awaitsReply s = true ↔ s.stuck := by
  simp [awaitsReply]

theorem sameLine_advance (h : silentRow s) : SameLine s (advance s) := by
  rcases h with hw | hp | hp | hr
  · rcases waitsForCaller_iff.1 hw with hp | hp
    · simp only [advance, hp]
      exact .refl s
    · simp only [advance, hp]
      exact .refl s
  · simp only [advance, hp]
    exact sameLine_rowGate s
  · simp only [advance, hp]
    exact ⟨rfl, rfl, rfl⟩
  · obtain ⟨hp | hp, hr⟩ := awaitsReply_iff.1 hr
    · simp only [advance, hp, rowX0_nil hr]
      exact .refl s
    · simp only [advance, hp, rowXp_nil hr]
      exact .refl s

theorem appendsEvent_advance (h : ¬ silentRow s) : ∃ e, AppendsEvent e s (advance s) := by
  simp only [silentRow, awaitsReply_iff, not_or] at h
  obtain ⟨hw, hgate, hresp, hstuck⟩ := h
  cases hp : s.phase
  all_goals simp only [advance, hp]
  case uninit | idle => exact absurd (by rw [hp]; rfl) hw
  case gate => exact absurd hp hgate
  case respond => exact absurd hp hresp
  case x0 =>
    cases hr : s.replies with
    | nil => exact absurd ⟨.inl hp, hr⟩ hstuck
    | cons rx rest => exact ⟨.xfer s.cmdb rx, rowX0_cons hr ▸ ⟨rfl, rfl, rfl⟩⟩
  case xp =>
    cases hr : s.replies with
    | nil => exact absurd ⟨.inr hp, hr⟩ hstuck
    | cons rx rest => exact ⟨.xfer (payloadByte s) rx, rowXp_cons hr ▸ ⟨rfl, rfl, rfl⟩⟩
  all_goals exact ⟨_, rfl, rfl, rfl⟩

theorem trace_prefix_advance (s : State) : s.trace <+: (advance s).trace := by
  by_cases h : silentRow s
  · rw [(sameLine_advance h).trace]
  · obtain ⟨e, he⟩ := appendsEvent_advance h
    exact he.trace ▸ List.prefix_append _ _

/-- Settles O19: of what a step can do, only a row that calls a downstream primitive touches the trace, once. -/
theorem traceGrowsByOneEventARow : Obligations.TraceGrowsByOneEventARow := by
  refine ⟨fun s t h => ?_, fun s t hw h => ?_⟩
  · exact step_induct_block (P := fun u => s.trace <+: u.trace) (fun u hu => hu.trans (trace_prefix_advance u))
      (fun _ _ _ _ hu => hu) (fun _ _ _ _ _ _ hu => hu) h (List.prefix_refl _)
  · obtain rfl : advance s = t := Host.Outcome.next.inj ((step_busy hw).symm.trans h)
    split
    · next hsilent => exact (sameLine_advance (.inr hsilent)).trace
    · next hloud =>
      obtain ⟨e, he⟩ := appendsEvent_advance (s := s) (by simpa [silentRow, hw] using hloud)
      exact ⟨e, he.trace⟩

theorem levelAfter_append_singleton (es : List Event) (e : Event) :
    levelAfter (es ++ [e]) = levelStep (levelAfter es) e := by
  simp [levelAfter]

theorem heldAfter_append_singleton (es : List Event) (e : Event) :
    heldAfter (es ++ [e]) = heldStep (heldAfter es) e := by
  simp [heldAfter]

/-- Settles O15: each row's event changes the line state as it changes what the trace says. -/
theorem lineStateFollowsTheTrace : Obligations.LineStateFollowsTheTrace := by
  intro s t hlevel hheld h
  refine step_induct_block (P := fun u => u.csLevel = levelAfter u.trace ∧ u.busHeld = heldAfter u.trace)
    (fun u ⟨hl, hh⟩ => ?_) (fun _ _ _ _ hu => hu) (fun _ _ _ _ _ _ hu => hu) h ⟨hlevel, hheld⟩
  by_cases hsilent : silentRow u
  · have hsame := sameLine_advance hsilent
    rw [hsame.trace, hsame.csLevel, hsame.busHeld]
    exact ⟨hl, hh⟩
  · obtain ⟨e, he⟩ := appendsEvent_advance hsilent
    rw [he.trace, he.csLevel, he.busHeld, levelAfter_append_singleton, heldAfter_append_singleton, hl, hh]
    exact ⟨rfl, rfl⟩

/-- Settles O20: the three rows as the model gives them. -/
theorem constructionRows : Obligations.ConstructionRows := by
  intro s
  refine ⟨fun hp => ?_, fun hp => ?_, fun hp => ?_⟩
  all_goals
    rw [step_busy (by rw [hp]; rfl)]
    simp only [advance, hp]
    rfl

end Sys2Proof.Machine
end

section
/-! The invariant of the block (R66, R72, R73): it holds at power-on, every row, move, store and accept keeps it, and
with it the trace says which site, line level and bus holding go with the phase. -/

namespace Sys2Proof.Machine

variable {s t : State}

/-! ### Following a trace -/

theorem followTrace_append (p : Params) (clk : Hertz) (cs : Byte) (a : TraceSite) (es fs : List Event) :
    followTrace p clk cs a (es ++ fs) = (followTrace p clk cs a es).bind (followTrace p clk cs · fs) := by
  induction es generalizing a with
  | nil => rfl
  | cons e es ih =>
    simp only [List.cons_append, followTrace]
    cases TraceSite.next p clk cs a e with
    | none => rfl
    | some b => exact ih b

theorem followTrace_append_singleton {p : Params} {clk : Hertz} {cs : Byte} {a b c : TraceSite} {es : List Event}
    {e : Event} (hes : followTrace p clk cs a es = some b) (he : TraceSite.next p clk cs b e = some c) :
    followTrace p clk cs a (es ++ [e]) = some c := by
  simp [followTrace_append, hes, followTrace, he]

/-! ### The rows -/

/-- The successor phases that ask nothing new of the latches: neither the gate nor a payload exchange, and no way into
a construction, onto the bus or past the last exchange that the first phase is not already on. -/
abbrev Carries (p q : Phase) : Prop :=
  q ≠ .uninit ∧ q ≠ .gate ∧ q ≠ .xp ∧ (constructing q → constructing p) ∧ (onTheBus q → onTheBus p) ∧
    (closing q → closing p)

/-- A row that appends the one event its site allows and moves on (R64, R65, R81). -/
theorem State.Inv.after_event (h : s.Inv) {e : Event} {l : CsLevel} {b : Bool} {q : Phase}
    (hnext : TraceSite.next s.par s.cfgClk s.cfgCs (siteOf s.phase) e = some (siteOf q)) (hl : l = levelOf q)
    (hb : b = heldIn q) (hq : Carries s.phase q) :
    State.Inv { s with trace := s.trace ++ [e], csLevel := l, busHeld := b, phase := q } := by
  obtain ⟨hun, hgate, hxp, hcon, hbus, hclose⟩ := hq
  exact {
    txbuf_wf := h.txbuf_wf
    rxbuf_wf := h.rxbuf_wf
    level := hl
    held := hb
    quiet := fun hp => absurd hp hun
    order := followTrace_append_singleton h.order hnext
    isInit := fun hp => h.isInit (hcon hp)
    notInit := fun hp => h.notInit (.inr (hbus (hp.resolve_left hgate)))
    validOnBus := fun hp => h.validOnBus (hbus hp)
    byteOnBus := fun hp => h.byteOnBus (hbus hp)
    counting := fun hp => absurd hp hxp
    counted := fun hp => h.counted (hclose hp) }

/-- Off the bus and off the gate the invariant asks little of the latches. -/
theorem State.Inv.of_off_bus (htx : s.txbuf.wf = true) (hrx : s.rxbuf.wf = true) (hlevel : s.csLevel = levelOf s.phase)
    (hheld : s.busHeld = heldIn s.phase) (hquiet : s.phase = .uninit → s.trace = [])
    (horder : followTrace s.par s.cfgClk s.cfgCs .powerOn s.trace = some (siteOf s.phase))
    (hinit : constructing s.phase → s.op = .init) (hoff : ¬ (s.phase = .gate ∨ onTheBus s.phase)) : s.Inv where
  txbuf_wf := htx
  rxbuf_wf := hrx
  level := hlevel
  held := hheld
  quiet := hquiet
  order := horder
  isInit := hinit
  notInit hp := absurd hp hoff
  validOnBus hp := absurd (.inr hp) hoff
  byteOnBus hp := absurd (.inr hp) hoff
  counting hp := absurd (.inr (by simp [onTheBus, hp])) hoff
  counted hp := absurd (.inr (by rcases hp with hp | hp | hp <;> simp [onTheBus, hp])) hoff

theorem State.Inv.after_rowGate (h : s.Inv) (hp : s.phase = .gate) : (rowGate s).Inv := by
  have hlevel : s.csLevel = .high := h.level.trans (hp ▸ rfl)
  have hheld : s.busHeld = false := h.held.trans (hp ▸ rfl)
  have horder := h.order
  rw [hp] at horder
  have hop : s.op ≠ .init := h.notInit (.inl hp)
  cases hg : passesGate s with
  | true =>
    rw [rowGate_pass hg]
    exact {
      txbuf_wf := h.txbuf_wf
      rxbuf_wf := h.rxbuf_wf
      level := hlevel
      held := hheld
      quiet := nofun
      order := horder
      isInit := fun hcon => absurd hcon (by simp)
      notInit := fun _ => hop
      validOnBus := fun _ hi => validIndex_iff.1 (passesGate_of_indexed hi ▸ hg)
      byteOnBus := fun _ => by cases ho : s.op <;> simp [commandByte, ho] at hop ⊢
      counting := nofun
      counted := fun hclose => absurd hclose (by simp) }
  | false =>
    rw [rowGate_fail hg]
    obtain ⟨st, v, m, d, hres, hm⟩ := invalidResult_spec s
    rw [hres]
    exact .of_off_bus h.txbuf_wf (hm h.rxbuf_wf) hlevel hheld nofun horder (by simp) (by simp)

/-- After `c` payload bytes: one is left, or `CNT` has reached `N` (R53, R69, R70). -/
theorem afterExchange_cases {c : Byte} (hc : c.toNat ≤ (payloadCount s).toNat) :
    (afterExchange s c = .xp ∧ c.toNat < (payloadCount s).toNat) ∨ (afterExchange s c = .e1 ∧ c = payloadCount s) := by
  rw [afterExchange_eq]
  by_cases hlt : c.toNat < (payloadCount s).toNat
  · exact .inl ⟨if_pos hlt, hlt⟩
  · exact .inr ⟨if_neg hlt, BitVec.eq_of_toNat_eq (by omega)⟩

/-- An answered exchange after which `c` payload bytes are done (R69, R70). -/
theorem State.Inv.after_exchange (h : s.Inv) (hp : s.phase = .x0 ∨ s.phase = .xp) {tx rx st v c : Byte}
    {rest : List Byte} {m : Memory} (hm : m.wf = true) (hc : c.toNat ≤ (payloadCount s).toNat) :
    State.Inv { s with
      trace := s.trace ++ [.xfer tx rx], replies := rest, status := st, value := v, rxbuf := m, cnt := c
      phase := afterExchange s c } := by
  have hbus : onTheBus s.phase := by rcases hp with hp | hp <;> simp [onTheBus, hp]
  have hlevel : s.csLevel = .low := h.level.trans (by rcases hp with hp | hp <;> rw [hp] <;> rfl)
  have hheld : s.busHeld = true := h.held.trans (by rcases hp with hp | hp <;> rw [hp] <;> rfl)
  have hnext : TraceSite.next s.par s.cfgClk s.cfgCs (siteOf s.phase) (.xfer tx rx) = some .exchanging := by
    rcases hp with hp | hp <;> rw [hp] <;> rfl
  have horder := followTrace_append_singleton h.order hnext
  rcases afterExchange_cases hc with ⟨hph, hlt⟩ | ⟨hph, heq⟩
  · rw [hph]
    exact ⟨h.txbuf_wf, hm, hlevel, hheld, nofun, horder, fun hcon => absurd hcon (by simp),
      fun _ => h.notInit (.inr hbus), fun _ => h.validOnBus hbus, fun _ => h.byteOnBus hbus, fun _ => hlt,
      fun hclose => absurd hclose (by simp)⟩
  · rw [hph]
    exact ⟨h.txbuf_wf, hm, hlevel, hheld, nofun, horder, fun hcon => absurd hcon (by simp),
      fun _ => h.notInit (.inr hbus), fun _ => h.validOnBus hbus, fun _ => h.byteOnBus hbus, nofun, fun _ => heq⟩

theorem State.Inv.after_rowX0 (h : s.Inv) (hp : s.phase = .x0) : (rowX0 s).Inv := by
  cases hr : s.replies with
  | nil => rwa [rowX0_nil hr]
  | cons rx rest =>
    rw [rowX0_cons hr]
    exact h.after_exchange (.inl hp) h.rxbuf_wf (Nat.zero_le _)

theorem State.Inv.after_rowXp (h : s.Inv) (hp : s.phase = .xp) : (rowXp s).Inv := by
  cases hr : s.replies with
  | nil => rwa [rowXp_nil hr]
  | cons rx rest =>
    have hlt := h.counting hp
    have hwf : (if s.op = .rdn then s.rxbuf.write s.cnt rx else s.rxbuf).wf = true := by
      split
      · exact write_wf h.rxbuf_wf
      · exact h.rxbuf_wf
    rw [rowXp_cons hr]
    exact h.after_exchange (.inr hp) hwf (cnt_succ hlt ▸ hlt)

theorem State.Inv.after_rowRespond (h : s.Inv) (hp : s.phase = .respond) : (rowRespond s).Inv := by
  have horder := h.order
  rw [hp] at horder
  exact .of_off_bus h.txbuf_wf h.rxbuf_wf (h.level.trans (hp ▸ rfl)) (h.held.trans (hp ▸ rfl)) nofun horder
    (fun hcon => absurd hcon (by simp [rowRespond])) (by simp [rowRespond])

theorem State.Inv.after_advance (h : s.Inv) : (advance s).Inv := by
  have hlevel := h.level
  have hheld := h.held
  cases hp : s.phase
  all_goals
    rw [hp] at hlevel hheld
    simp only [advance, hp]
  case uninit | idle => exact h
  case gate => exact h.after_rowGate hp
  case x0 => exact h.after_rowX0 hp
  case xp => exact h.after_rowXp hp
  case respond => exact h.after_rowRespond hp
  case c1 => exact h.after_event (by simp [hp, siteOf, TraceSite.next]) hlevel hheld (by rw [hp]; decide)
  case c2 => exact h.after_event (by simp [hp, siteOf, TraceSite.next, csInactive]) rfl hheld (by rw [hp]; decide)
  case c3 => exact h.after_event (by simp [hp, siteOf, TraceSite.next]) hlevel hheld (by rw [hp]; decide)
  case b1 => exact h.after_event (by simp [hp, siteOf, TraceSite.next]) hlevel rfl (by rw [hp]; decide)
  case b2 => exact h.after_event (by simp [hp, siteOf, TraceSite.next, csActive]) rfl hheld (by rw [hp]; decide)
  case b3 => exact h.after_event (by simp [hp, siteOf, TraceSite.next]) hlevel hheld (by rw [hp]; decide)
  case e1 =>
    exact h.after_event (by simp [hp, siteOf, TraceSite.next, csInactive, isXfer]) rfl hheld (by rw [hp]; decide)
  case e2 => exact h.after_event (by simp [hp, siteOf, TraceSite.next]) hlevel hheld (by rw [hp]; decide)
  case e3 => exact h.after_event (by simp [hp, siteOf, TraceSite.next]) hlevel rfl (by rw [hp]; decide)

/-! ### The caller's moves, and a step -/

theorem State.Inv.after_popMove (h : s.Inv) : (popMove s).Inv := by
  obtain ⟨htx, hrx, hlevel, hheld, hquiet, horder, hinit, hnot, hvalid, hbyte, hcounting, hcounted⟩ := h
  exact ⟨htx, hrx, hlevel, hheld, hquiet, horder, hinit, hnot, hvalid, hbyte, hcounting, hcounted⟩

theorem State.Inv.after_storeByte (h : s.Inv) (b : Buffer) (k v : Byte) : (storeByte b k v s).Inv := by
  obtain ⟨htx, hrx⟩ := storeByte_wf (b := b) (k := k) (v := v) h.txbuf_wf h.rxbuf_wf
  obtain ⟨mt, mr, hst⟩ := storeByte_eq b k v s
  rw [hst] at htx hrx ⊢
  exact ⟨htx, hrx, h.level, h.held, h.quiet, h.order, h.isInit, h.notInit, h.validOnBus, h.byteOnBus, h.counting,
    h.counted⟩

theorem idle_of_accepted {op : Op} {ph : Phase} (ho : op ≠ .init) (h : admission op ph = .accepted) : ph = .idle := by
  by_contra hp
  rw [admission, if_neg ho, if_neg hp] at h
  split at h <;> cases h

theorem uninit_of_accepted {ph : Phase} (h : admission .init ph = .accepted) : ph = .uninit := by
  by_contra hp
  exact ne_init_of_accepted hp h rfl

/-- Accept: `INIT` starts over an empty trace, the others where the block stands (R67). -/
theorem State.Inv.after_latchRequest (h : s.Inv) {op : Op} {a b : Byte} {clk : Hertz}
    (hacc : admission op s.phase = .accepted) : (latchRequest op a b clk s).Inv := by
  by_cases ho : op = .init
  · subst ho
    have hp := uninit_of_accepted hacc
    refine .of_off_bus h.txbuf_wf h.rxbuf_wf (h.level.trans (hp ▸ rfl)) (h.held.trans (hp ▸ rfl)) nofun ?_
      (fun _ => rfl) (by simp)
    simp [h.quiet hp, followTrace, siteOf]
  · have hp := idle_of_accepted ho hacc
    have horder := h.order
    rw [hp] at horder
    have hph : (latchRequest op a b clk s).phase = .gate := if_neg ho
    constructor
    case txbuf_wf => exact h.txbuf_wf
    case rxbuf_wf => exact h.rxbuf_wf
    case notInit => exact fun _ => ho
    case level => exact h.level.trans (by rw [hp, hph]; rfl)
    case held => exact h.held.trans (by rw [hp, hph]; rfl)
    case order =>
      rw [hph]
      simpa [ho, siteOf] using horder
    all_goals simp [ho, constructing, onTheBus, closing]

/-- Settles O12: at power-on the trace is empty and every buffer too. -/
theorem powerOnMeetsTheInvariant : Obligations.PowerOnMeetsTheInvariant :=
  .of_off_bus rfl rfl rfl rfl (fun _ => rfl) rfl (by decide) (by decide)

/-- Settles O13: every row, a move taken, a store and an accept keep the invariant. -/
theorem stepKeepsTheInvariant : Obligations.StepKeepsTheInvariant := fun _ _ hs h =>
  step_induct (fun _ hu => hu.after_advance) (fun _ hu => hu.after_popMove)
    (fun _ b k v hu => hu.after_storeByte b k v) (fun _ _ _ _ _ hacc hu => hu.after_latchRequest hacc) h hs

/-! ### What the invariant says -/

theorem State.Inv.of_step (hs : s.Inv) (h : step s = .next t) : t.Inv := stepKeepsTheInvariant s t hs h

/-- A constructed block that waits has chip-select high and the bus released. -/
theorem State.Inv.line_of_idle (h : s.Inv) (hp : s.phase = .idle) : s.csLevel = .high ∧ s.busHeld = false :=
  ⟨h.level.trans (hp ▸ rfl), h.held.trans (hp ▸ rfl)⟩

/-- The level of the chip-select line at each site of a trace (R66). -/
def TraceSite.level : TraceSite → CsLevel
  | .powerOn | .lineOutput => .unspecified
  | .lineInactive | .outside | .acquired | .deasserted | .released => .high
  | .asserted | .settled | .exchanging => .low

/-- Whether the bus is held at each site of a trace (R66). -/
def TraceSite.held : TraceSite → Bool
  | .powerOn | .lineOutput | .lineInactive | .outside => false
  | .acquired | .asserted | .settled | .exchanging | .deasserted | .released => true

theorem isXfer_iff {e : Event} : isXfer e = true ↔ ∃ tx rx, e = .xfer tx rx := by
  cases e <;> simp [isXfer]

/-- The event that leads from a site to the next changes the line state as the sites say. -/
theorem TraceSite.line_of_next {p : Params} {clk : Hertz} {cs : Byte} {a b : TraceSite} {e : Event}
    (h : TraceSite.next p clk cs a e = some b) : levelStep a.level e = b.level ∧ heldStep a.held e = b.held := by
  by_cases hx : isXfer e = true
  · obtain ⟨tx, rx, rfl⟩ := isXfer_iff.1 hx
    cases a <;> cases h <;> exact ⟨rfl, rfl⟩
  · cases a
    case settled => simp [TraceSite.next, hx] at h
    all_goals
      simp only [TraceSite.next, hx, if_false, Bool.false_eq_true, Option.ite_none_right_eq_some,
        Option.some.injEq] at h
      obtain ⟨rfl, rfl⟩ := h
      exact ⟨rfl, rfl⟩

theorem line_of_followTrace {p : Params} {clk : Hertz} {cs : Byte} {a b : TraceSite} {es : List Event}
    (h : followTrace p clk cs a es = some b) :
    es.foldl levelStep a.level = b.level ∧ es.foldl heldStep a.held = b.held := by
  induction es generalizing a with
  | nil =>
    cases h
    exact ⟨rfl, rfl⟩
  | cons e es ih =>
    unfold followTrace at h
    split at h
    · cases h
    · next c hc =>
      obtain ⟨hlevel, hheld⟩ := TraceSite.line_of_next hc
      simpa only [List.foldl_cons, hlevel, hheld] using ih h

/-- An exchange follows the settle delay or another exchange, and nothing else. -/
theorem site_of_xfer {p : Params} {clk : Hertz} {cs tx rx : Byte} {a b : TraceSite}
    (h : TraceSite.next p clk cs a (.xfer tx rx) = some b) : a = .settled ∨ a = .exchanging := by
  cases a <;> simp [TraceSite.next] at h ⊢

/-- Settles O14: the trace up to the exchange leads to a site where an exchange may follow, and there the line is low
and the bus held. -/
theorem exchangesLieInsideBrackets : Obligations.ExchangesLieInsideBrackets := by
  intro s before after tx rx hs htrace
  have horder := hs.order
  rw [htrace, followTrace_append, Option.bind_eq_some_iff] at horder
  obtain ⟨a, hbefore, hafter⟩ := horder
  obtain ⟨hlevel, hheld⟩ := line_of_followTrace hbefore
  rw [followTrace] at hafter
  split at hafter
  · cases hafter
  · next b hb =>
    rcases site_of_xfer hb with rfl | rfl <;> exact ⟨hlevel, hheld⟩

/-- A step that gives a response ends in `IDLE`: row `RESPOND` gives it, as a row or as the last of a run (R71). -/
theorem idle_of_step_responds (h : step s = .next t) (hresp : t.responses ≠ s.responses) : t.phase = .idle := by
  by_contra hne
  refine hresp ?_
  rcases step_next h with ⟨-, rfl⟩ | ⟨-, rfl | ⟨b, k, v, rfl⟩ | ⟨op, a, b, clk, hacc, rfl⟩⟩
  · refine advance_responses fun hp => hne ?_
    simp [advance, hp, rowRespond]
  · rfl
  · obtain ⟨mt, mr, hst⟩ := storeByte_eq b k v (popMove s)
    rw [hst]
    rfl
  · exact run_responses_of_ne_idle _ _ hne

/-- Settles O16: the response comes with `IDLE`, and there the invariant says that the bracket is closed. -/
theorem responseOnlyAfterTheBracket : Obligations.ResponseOnlyAfterTheBracket := by
  intro s t hs h hresp
  have hidle := idle_of_step_responds h hresp
  obtain ⟨hlevel, hheld⟩ := (hs.of_step h).line_of_idle hidle
  exact ⟨hidle, hheld, hlevel⟩

/-- Settles O58: the last response leaves the block in `IDLE`. -/
theorem runEndsWithTheLastResponse : Obligations.RunEndsWithTheLastResponse :=
  ⟨fun _ hfin => hfin.1, fun _ hs hfin => hs.line_of_idle hfin.1,
    fun _ _ _ h hresp hcaller => ⟨idle_of_step_responds h hresp, hcaller⟩⟩

/-- Settles O27: an exchange without a reply is no event, and both phases of an exchange lie inside the bracket. -/
theorem unansweredExchangeIsStuck : Obligations.UnansweredExchangeIsStuck := by
  intro s hs hstuck
  have hlevel := hs.level
  have hheld := hs.held
  obtain ⟨hp | hp, hr⟩ := hstuck <;> rw [hp] at hlevel hheld
  · exact ⟨by rw [step_x0 hp, rowX0_nil hr], fun hfin => (nomatch hp.symm.trans hfin.1), hlevel, hheld⟩
  · exact ⟨by rw [step_xp hp, rowXp_nil hr], fun hfin => (nomatch hp.symm.trans hfin.1), hlevel, hheld⟩

theorem State.Inv.not_held_of_waits (h : s.Inv) (hw : s.phase.waitsForCaller = true) : s.busHeld = false := by
  have hheld := h.held
  rcases waitsForCaller_iff.1 hw with hp | hp <;> rw [hp] at hheld <;> exact hheld

/-- Settles O60: of two blocks one waits for its caller, and a block that waits does not hold the bus. -/
theorem oneBlockHoldsTheBus : Obligations.OneBlockHoldsTheBus := by
  intro blocks hlaunch hinv
  refine hlaunch.oneAtATime.imp_of_mem fun hs ht hw => ?_
  exact hw.imp (hinv _ hs).not_held_of_waits (hinv _ ht).not_held_of_waits

end Sys2Proof.Machine
end

section
/-! What an operation leaves unchanged (R76 to R81): no row writes the request, the configuration or the transmit
buffer, and a row writes the results of its own operation alone. -/

namespace Sys2Proof.Machine

variable {s t u : State}

/-! ### The results a row writes -/

/-- Of the result latches, the receive buffer and the draws only those of the operation in `s` have changed: nothing but
a read writes `STATUS` or draws, `RD1` alone writes `VALUE`, `RDN` alone `RXBUF`. -/
structure OwnResults (s t : State) : Prop where
  status : isRead s.op = false → t.status = s.status
  value : s.op ≠ .rd1 → t.value = s.value
  rxbuf : s.op ≠ .rdn → t.rxbuf = s.rxbuf
  draws : isRead s.op = false → t.draws = s.draws

theorem OwnResults.refl (s : State) : OwnResults s s := ⟨fun _ => rfl, fun _ => rfl, fun _ => rfl, fun _ => rfl⟩

theorem OwnResults.trans (hop : t.op = s.op) (h : OwnResults s t) (h' : OwnResults t u) : OwnResults s u where
  status ho := (h'.status (hop ▸ ho)).trans (h.status ho)
  value ho := (h'.value (hop ▸ ho)).trans (h.value ho)
  rxbuf ho := (h'.rxbuf (hop ▸ ho)).trans (h.rxbuf ho)
  draws ho := (h'.draws (hop ▸ ho)).trans (h.draws ho)

/-- An invalid `RDN` at the gate: the sentinel, and draws into the bytes of `RXBUF` below `LEN` (R68, R77). -/
theorem invalidResult_rdn_wf (ho : s.op = .rdn) :
    ∃ m n, invalidResult s = { s with status := sentinelStatus, rxbuf := m, draws := n } ∧
      (s.rxbuf.wf = true → m.wf = true ∧ ∀ k : Byte, s.len.toNat ≤ k.toNat → m.read k = s.rxbuf.read k) := by
  obtain ⟨m, hm, hread⟩ := drawIntoRx_spec s.len.toNat { s with status := sentinelStatus }
  exact ⟨m, s.draws + s.len.toNat, by simpa [invalidResult, ho] using hm, hread⟩

theorem invalidResult_not_read (ho : isRead s.op = false) : invalidResult s = s := by
  cases h : s.op <;> simp [isRead, h] at ho <;> simp [invalidResult, h]

theorem ownResults_invalidResult (s : State) : OwnResults s (invalidResult s) := by
  by_cases hrd1 : s.op = .rd1
  · rw [invalidResult_rd1 hrd1]
    exact ⟨by simp [isRead, hrd1], fun h => absurd hrd1 h, fun _ => rfl, by simp [isRead, hrd1]⟩
  by_cases hrdn : s.op = .rdn
  · obtain ⟨m, n, hres, -⟩ := invalidResult_rdn_wf hrdn
    rw [hres]
    exact ⟨by simp [isRead, hrdn], fun _ => rfl, fun h => absurd hrdn h, by simp [isRead, hrdn]⟩
  · rw [invalidResult_not_read (Bool.eq_false_iff.2 (isRead_iff.not.2 (not_or.2 ⟨hrd1, hrdn⟩)))]
    exact .refl s

theorem ownResults_rowGate (s : State) : OwnResults s (rowGate s) := by
  cases hg : passesGate s with
  | true =>
    rw [rowGate_pass hg]
    exact ⟨fun _ => rfl, fun _ => rfl, fun _ => rfl, fun _ => rfl⟩
  | false =>
    rw [rowGate_fail hg]
    obtain ⟨hstatus, hvalue, hrx, hdraws⟩ := ownResults_invalidResult s
    exact ⟨hstatus, hvalue, hrx, hdraws⟩

theorem ownResults_rowX0 (s : State) : OwnResults s (rowX0 s) := by
  cases hr : s.replies with
  | nil =>
    rw [rowX0_nil hr]
    exact .refl s
  | cons rx rest =>
    rw [rowX0_cons hr]
    exact ⟨fun ho => by simp [ho], fun _ => rfl, fun _ => rfl, fun _ => rfl⟩

theorem ownResults_rowXp (s : State) : OwnResults s (rowXp s) := by
  cases hr : s.replies with
  | nil =>
    rw [rowXp_nil hr]
    exact .refl s
  | cons rx rest =>
    rw [rowXp_cons hr]
    exact ⟨fun _ => rfl, fun ho => if_neg ho, fun ho => if_neg ho, fun _ => rfl⟩

theorem ownResults_advance (s : State) : OwnResults s (advance s) := by
  cases hp : s.phase
  all_goals simp only [advance, hp]
  case gate => exact ownResults_rowGate s
  case x0 => exact ownResults_rowX0 s
  case xp => exact ownResults_rowXp s
  all_goals exact ⟨fun _ => rfl, fun _ => rfl, fun _ => rfl, fun _ => rfl⟩

theorem ownResults_run (n : Nat) (s : State) : OwnResults s (run n s) :=
  (run_induct (P := fun u => SameRequest s u ∧ OwnResults s u)
    (fun u ⟨hreq, hres⟩ => ⟨hreq.trans (sameRequest_advance u), hres.trans hreq.op (ownResults_advance u)⟩) n s
    ⟨.refl s, .refl s⟩).2

/-! ### The receive buffer of `RDN` -/

/-- `t` has a canonical receive buffer, and its bytes from `len` on are those of `s`. -/
structure KeepsFrom (len : Byte) (s t : State) : Prop where
  wf : t.rxbuf.wf = true
  read : ∀ k : Byte, len.toNat ≤ k.toNat → t.rxbuf.read k = s.rxbuf.read k

theorem KeepsFrom.of_rxbuf_eq {len : Byte} (h : KeepsFrom len s t) (hrx : u.rxbuf = t.rxbuf) : KeepsFrom len s u :=
  ⟨hrx ▸ h.wf, hrx ▸ h.read⟩

/-- A row of `RDN` writes `RXBUF` below `LEN` alone. -/
theorem KeepsFrom.after_advance (h : KeepsFrom t.len s t) (ho : t.op = .rdn)
    (hc : t.phase = .xp → t.cnt.toNat < (payloadCount t).toNat) : KeepsFrom t.len s (advance t) := by
  cases hp : t.phase
  all_goals simp only [advance, hp]
  case gate =>
    cases hg : passesGate t with
    | true => exact h.of_rxbuf_eq (by rw [rowGate_pass hg])
    | false =>
      obtain ⟨m, n, hres, hm⟩ := invalidResult_rdn_wf ho
      obtain ⟨hmwf, hmread⟩ := hm h.wf
      rw [rowGate_fail hg, hres]
      exact ⟨hmwf, fun k hk => (hmread k hk).trans (h.read k hk)⟩
  case x0 =>
    refine h.of_rxbuf_eq ?_
    cases hr : t.replies with
    | nil => rw [rowX0_nil hr]
    | cons rx rest => rw [rowX0_cons hr]
  case xp =>
    cases hr : t.replies with
    | nil =>
      rw [rowXp_nil hr]
      exact h
    | cons rx rest =>
      have hlt : t.cnt.toNat < t.len.toNat := by simpa [payloadCount, ho] using hc hp
      rw [rowXp_cons hr, if_pos ho]
      refine ⟨write_wf h.wf, fun k hk => ?_⟩
      rw [read_write h.wf, if_neg, h.read k hk]
      rintro rfl
      omega
  all_goals exact h.of_rxbuf_eq rfl

theorem keepsFrom_run {n : Nat} (ho : s.op = .rdn) (hp : s.phase = .gate) (hw : s.rxbuf.wf = true) :
    KeepsFrom s.len s (run n s) := by
  have hstart : EndsWithEvents (s.trace.length + eventsLeft s) s := ⟨fun hxp => (nomatch hp.symm.trans hxp), rfl⟩
  obtain ⟨-, -, hkeeps⟩ := run_induct
    (P := fun u => EndsWithEvents (s.trace.length + eventsLeft s) u ∧ SameRequest s u ∧ KeepsFrom s.len s u)
    (fun u ⟨hev, hreq, hk⟩ => by
      refine ⟨hev.after_advance, hreq.trans (sameRequest_advance u), ?_⟩
      rw [← hreq.len] at hk ⊢
      exact hk.after_advance (hreq.op.trans ho) hev.counting) n s ⟨hstart, .refl s, hw, fun _ _ => rfl⟩
  exact hkeeps

/-! ### The frames of the operations -/

/-- What every operation but `INIT` leaves: the parameters, the configuration, the caller's moves, the transmit buffer,
and the results that are not its own. -/
theorem perform_frame {op : Op} {a b : Byte} (ho : op ≠ .init) (h : perform op a b 0 s = .next t) :
    (t.par = s.par ∧ t.cfgClk = s.cfgClk ∧ t.cfgCs = s.cfgCs ∧ t.caller = s.caller ∧ t.txbuf = s.txbuf) ∧
      (isRead op = false → t.status = s.status ∧ t.draws = s.draws) ∧ (op ≠ .rd1 → t.value = s.value) ∧
      (op ≠ .rdn → t.rxbuf = s.rxbuf) := by
  rcases perform_next h with ⟨-, rfl⟩ | ⟨-, rfl⟩
  · obtain ⟨hpar, hclk, hcs, -, -, -, -, htx, hcaller⟩ :=
      sameRequest_run longestOperation (latchRequest op a b 0 s)
    obtain ⟨hstatus, hvalue, hrx, hdraws⟩ := ownResults_run longestOperation (latchRequest op a b 0 s)
    simp only [latchRequest_cfgClk, latchRequest_cfgCs, if_neg ho] at hclk hcs
    exact ⟨⟨hpar, hclk, hcs, hcaller, htx⟩, fun hr => ⟨hstatus hr, hdraws hr⟩, hvalue, hrx⟩
  · exact ⟨⟨rfl, rfl, rfl, rfl, rfl⟩, fun _ => ⟨rfl, rfl⟩, fun _ => rfl, fun _ => rfl⟩

/-- Settles O45: the frame of every operation, with the bytes of `RXBUF` that `RDN` cannot reach. -/
theorem readFrame : Obligations.ReadFrame := by
  intro s t idx b hw
  refine ⟨fun h => ?_, fun h => ?_⟩
  · obtain ⟨⟨hpar, hclk, hcs, hcaller, htx⟩, -, -, hrx⟩ := perform_frame (by decide) h
    exact ⟨hpar, hclk, hcs, hcaller, fun k => by rw [htx], fun k => by rw [hrx (by decide)]⟩
  · obtain ⟨⟨hpar, hclk, hcs, hcaller, htx⟩, -, hvalue, -⟩ := perform_frame (by decide) h
    refine ⟨hpar, hclk, hcs, hcaller, hvalue (by decide), fun k => by rw [htx], ?_⟩
    rcases perform_next h with ⟨-, rfl⟩ | ⟨-, rfl⟩
    · exact (keepsFrom_run (s := latchRequest .rdn idx b 0 s) rfl rfl hw).read
    · exact fun _ _ => rfl

/-- An operation that is no read leaves both buffers and both result latches. -/
theorem perform_frame_not_read {op : Op} {a b : Byte} (ho : op ≠ .init) (hr : isRead op = false)
    (h : perform op a b 0 s = .next t) :
    t.par = s.par ∧ t.cfgClk = s.cfgClk ∧ t.cfgCs = s.cfgCs ∧ t.status = s.status ∧ t.value = s.value ∧
      t.caller = s.caller ∧ t.draws = s.draws ∧ (∀ k, t.txbuf.read k = s.txbuf.read k) ∧
      ∀ k, t.rxbuf.read k = s.rxbuf.read k := by
  obtain ⟨⟨hpar, hclk, hcs, hcaller, htx⟩, hstatus, hvalue, hrx⟩ := perform_frame ho h
  obtain ⟨hst, hdraws⟩ := hstatus hr
  have hval := hvalue (by rintro rfl; cases hr)
  have hrxbuf := hrx (by rintro rfl; cases hr)
  exact ⟨hpar, hclk, hcs, hst, hval, hcaller, hdraws, fun k => by rw [htx], fun k => by rw [hrxbuf]⟩

/-- Settles O46: `CMD` is no read. -/
theorem commandFrame : Obligations.CommandFrame := fun _ _ _ _ h => perform_frame_not_read (by decide) rfl h

/-- Settles O47: neither write is a read. -/
theorem writeFrame : Obligations.WriteFrame := by
  rintro s t i idx b (rfl | rfl) h
  · exact perform_frame_not_read (op := .wr1) (by decide) rfl h
  · exact perform_frame_not_read (op := .wrn) (by decide) rfl h

end Sys2Proof.Machine
end

section
/-! Construction (R81, R99) and the requests of a busy block (R67). -/

namespace Sys2Proof.Machine

variable {s t : State}

/-- Settles O28: accept in `UNINIT`, then the three rows of construction and the response. -/
theorem constructionCompletes : Obligations.ConstructionCompletes := by
  intro s clk cs b hp
  have hexec : exec (.init clk cs b) s = .next (run longestOperation (latchRequest .init cs b clk s)) :=
    perform_init hp
  rw [hexec, longestOperation, run_construct (n := 260) rfl]
  rfl

/-- Settles O29: the state that construction leads to; `BUS_HELD` is 0 because it was in `UNINIT`. -/
theorem constructedBlockIsReady : Obligations.ConstructedBlockIsReady := by
  intro s clk cs b hs hp
  have hheld : s.busHeld = false := hs.not_held_of_waits (by rw [hp]; rfl)
  exact ⟨_, constructionCompletes s clk cs b hp, rfl, rfl, rfl, rfl, hheld⟩

/-- Settles O48: an accepted `INIT` leads to the state of `constructionCompletes`, any other changes nothing. -/
theorem constructionFrame : Obligations.ConstructionFrame := by
  intro s t clk cs b h
  by_cases hp : s.phase = .uninit
  · obtain rfl := Host.Outcome.next.inj ((constructionCompletes s clk cs b hp).symm.trans h)
    exact ⟨rfl, rfl, rfl, rfl, rfl, rfl, rfl, rfl, rfl, fun _ => rfl, fun _ => rfl⟩
  · obtain rfl := Host.Outcome.next.inj ((secondConstructionIsRefused s clk cs b hp).symm.trans h)
    exact ⟨rfl, rfl, rfl, rfl, rfl, rfl, rfl, rfl, rfl, fun _ => rfl, fun _ => rfl⟩

theorem admission_busy {op : Op} {ph : Phase} (ho : op ≠ .init) (hw : ph.waitsForCaller = false) :
    admission op ph = .noMove := by
  rw [← Bool.not_eq_true, waitsForCaller_iff, not_or] at hw
  obtain ⟨huninit, hidle⟩ := hw
  rw [admission, if_neg ho, if_neg hidle, if_neg huninit]

/-- Settles O32: each of the five rows performs an operation other than `INIT`. -/
theorem busyBlockTakesNoRequest : Obligations.BusyBlockTakesNoRequest := by
  intro s a b hw
  have hbusy (op : Op) (ho : op ≠ .init) : perform op a b 0 s = .refused .blockBusy := by
    rw [perform, admission_busy ho hw]
  exact ⟨hbusy .rd1 (by decide), hbusy .rdn (by decide), hbusy .cmd (by decide), hbusy .wr1 (by decide),
    hbusy .wrn (by decide)⟩

end Sys2Proof.Machine
end

section
/-! The command-byte rows (R51, R69; log 14): each is row `X0` where its byte is due, and refused elsewhere. -/

namespace Sys2Proof.Machine

variable {s t : State} {idx : Byte}

/-- Where the block sends the byte next. -/
theorem commandByteDue_iff {base : Byte} :
    commandByteDue base idx s = true ↔ s.phase = .x0 ∧ idx.toNat < s.par.numRegisters ∧ s.cmdb = base ||| idx := by
  simp only [commandByteDue, Bool.and_eq_true, decide_eq_true_eq, validIndex_iff, and_assoc]

theorem exec_wireRReg_due (ho : s.op = .rd1 ∨ s.op = .rdn) (hdue : commandByteDue s.par.readBase idx s = true) :
    exec (.wireRReg idx) s = .next (rowX0 s) := by
  refine if_pos ?_
  rw [isRead_iff.2 ho, hdue]
  rfl

theorem exec_wireWReg_due (ho : s.op = .wr1 ∨ s.op = .wrn) (hdue : commandByteDue s.par.writeBase idx s = true) :
    exec (.wireWReg idx) s = .next (rowX0 s) := by
  refine if_pos ?_
  rw [hdue, Bool.and_true]
  simpa using ho

/-- All a command-byte row can do: row `X0`, for the read row in a read, for the write row in a write. -/
theorem exec_wire_next {i : Instr} (hi : i = .wireRReg idx ∨ i = .wireWReg idx) (h : exec i s = .next t) :
    t = rowX0 s ∧ (i = .wireWReg idx → s.op = .wr1 ∨ s.op = .wrn) := by
  rcases hi with rfl | rfl
  · simp only [exec, execWireRReg] at h
    split at h
    · exact ⟨(Host.Outcome.next.inj h).symm, nofun⟩
    · cases h
  · simp only [exec, execWireWReg] at h
    split at h
    · next hdue => exact ⟨(Host.Outcome.next.inj h).symm, fun _ => by simpa using (Bool.and_eq_true_iff.1 hdue).1⟩
    · cases h

/-- Settles O38: the row is the answered row `X0`, where a read has payload unless it is an `RDN` of length 0. -/
theorem readCommandByteIsSent : Obligations.ReadCommandByteIsSent := by
  intro s idx rx rest hp ho hv hc hr
  have hexec := exec_wireRReg_due ho (commandByteDue_iff.2 ⟨hp, hv, hc⟩)
  refine ⟨?_, (step_x0 hp).trans hexec.symm⟩
  rw [hexec, rowX0_cons hr, afterExchange_zero, hc]
  rcases ho with ho | ho <;> simp [ho, isRead]

/-- Settles O39: the row is the answered row `X0`, where a write has payload unless it is a `WRN` of length 0. -/
theorem writeCommandByteIsSent : Obligations.WriteCommandByteIsSent := by
  intro s idx rx rest hp ho hv hc hr
  have hexec := exec_wireWReg_due ho (commandByteDue_iff.2 ⟨hp, hv, hc⟩)
  refine ⟨?_, (step_x0 hp).trans hexec.symm⟩
  rw [hexec, rowX0_cons hr, afterExchange_zero, hc]
  rcases ho with ho | ho <;> simp [ho, isRead]

theorem not_commandByteDue {base : Byte}
    (h : s.phase ≠ .x0 ∨ s.par.numRegisters ≤ idx.toNat ∨ s.cmdb ≠ base ||| idx) :
    commandByteDue base idx s = false := by
  rw [← Bool.not_eq_true, commandByteDue_iff]
  rintro ⟨hp, hv, hc⟩
  exact h.elim (· hp) (·.elim hv.not_ge (· hc))

/-- Settles O40: each cause makes one of the two tests of the row false. -/
theorem commandByteOutOfPlaceIsRefused : Obligations.CommandByteOutOfPlaceIsRefused := by
  refine fun s idx => ⟨fun h => if_neg ?_, fun h => if_neg ?_⟩
  · rcases h with h | h | h | h
    · simp [not_commandByteDue (.inl h)]
    · simp [isRead_iff, h]
    · simp [not_commandByteDue (.inr (.inl h))]
    · simp [not_commandByteDue (.inr (.inr h))]
  · rcases h with h | h | h | h
    · simp [not_commandByteDue (.inl h)]
    · simp [h]
    · simp [not_commandByteDue (.inr (.inl h))]
    · simp [not_commandByteDue (.inr (.inr h))]

theorem rowX0_frame (s : State) :
    (rowX0 s).cmdb = s.cmdb ∧ (rowX0 s).csLevel = s.csLevel ∧ (rowX0 s).busHeld = s.busHeld ∧
      (rowX0 s).value = s.value ∧ (rowX0 s).rxbuf = s.rxbuf ∧ (rowX0 s).draws = s.draws := by
  cases hr : s.replies with
  | nil => simp [rowX0_nil hr]
  | cons rx rest => simp [rowX0_cons hr]

/-- Settles O49: the frame of row `X0`, which keeps the status of a write. -/
theorem commandByteFrame : Obligations.CommandByteFrame := by
  intro s t i idx hi h
  obtain ⟨rfl, hwrite⟩ := exec_wire_next hi h
  obtain ⟨hpar, hclk, hcs, hop, hidx, hlen, hdat, htx, hcaller⟩ := sameRequest_rowX0 s
  obtain ⟨hcmdb, hlevel, hheld, hvalue, hrx, hdraws⟩ := rowX0_frame s
  refine ⟨hpar, hclk, hcs, hop, hidx, hlen, hdat, hcmdb, hvalue, hlevel, hheld, rowX0_responses, hcaller, hdraws,
    fun hw => (ownResults_rowX0 s).status ?_, fun k => by rw [htx], fun k => by rw [hrx]⟩
  rcases hwrite hw with ho | ho <;> rw [ho] <;> rfl

end Sys2Proof.Machine
end

section
/-! An operation from the gate to where it stops (R64 to R71, R74): after a command byte and any number of answered
payload bytes it is in one explicit state, from which it ends or hangs. -/

namespace Sys2Proof.Machine

variable {s t : State}

/-! ### The payload bytes of a frame -/

/-- The payload bytes from number `c` on, in the order they are sent (R50, R70). -/
def payloadsFrom (s : State) (c : Nat) : List Byte :=
  (List.range' c ((payloadCount s).toNat - c)).map fun k => payloadByte { s with cnt := BitVec.ofNat 8 k }

/-- All the payload bytes of the operation's frame. -/
def payloads (s : State) : List Byte := payloadsFrom s 0

theorem length_payloads (s : State) : (payloads s).length = (payloadCount s).toNat := by
  simp [payloads, payloadsFrom]

theorem payloadsFrom_cnt (h : s.cnt.toNat < (payloadCount s).toNat) :
    payloadsFrom s s.cnt.toNat = payloadByte s :: payloadsFrom s (s.cnt.toNat + 1) := by
  obtain ⟨k, hk⟩ : ∃ k, (payloadCount s).toNat - s.cnt.toNat = k + 1 := ⟨_, (Nat.succ_pred (by omega)).symm⟩
  have hk' : (payloadCount s).toNat - (s.cnt.toNat + 1) = k := by omega
  simp [payloadsFrom, hk, hk', List.range'_succ]

theorem payloads_rd1 (ho : s.op = .rd1) : payloads s = [0xFF] := by
  simp [payloads, payloadsFrom, payloadCount, payloadByte, filler, ho]

theorem payloads_wr1 (ho : s.op = .wr1) : payloads s = [s.dat] := by
  simp [payloads, payloadsFrom, payloadCount, payloadByte, ho]

theorem payloads_cmd (ho : s.op = .cmd) : payloads s = [] := by
  simp [payloads, payloadsFrom, payloadCount, ho]

theorem payloads_rdn (ho : s.op = .rdn) : payloads s = List.replicate s.len.toNat 0xFF := by
  simp [payloads, payloadsFrom, payloadCount, payloadByte, filler, ho]

theorem payloads_wrn (ho : s.op = .wrn) :
    payloads s = (List.range s.len.toNat).map fun k => s.txbuf.read (BitVec.ofNat 8 k) := by
  simp [payloads, payloadsFrom, payloadCount, payloadByte, ho, List.range_eq_range']

theorem exchangesOf_take (txs rxs : List Byte) : exchangesOf (txs.take rxs.length) rxs = exchangesOf txs rxs := by
  induction rxs generalizing txs with
  | nil => simp [exchangesOf]
  | cons r rxs ih =>
    cases txs with
    | nil => rfl
    | cons x txs => simpa [exchangesOf] using ih txs

/-! ### The payload exchanges -/

theorem SameRequest.payloadCount_eq (h : SameRequest s t) : payloadCount t = payloadCount s := by
  simp [payloadCount, h.op, h.len]

theorem SameRequest.afterExchange_eq (h : SameRequest s t) (c : Byte) : afterExchange t c = afterExchange s c := by
  simp [afterExchange, payloadLeft, h.payloadCount_eq]

theorem SameRequest.payloadsFrom_eq (h : SameRequest s t) (c : Nat) : payloadsFrom t c = payloadsFrom s c := by
  simp [payloadsFrom, payloadByte, h.payloadCount_eq, h.op, h.dat, h.txbuf]

/-- The state after further payload exchanges, answered by `rs`, that left `m` in the receive buffer. -/
def afterPayloads (s : State) (rs rest : List Byte) (m : Memory) : State :=
  { s with
    trace := s.trace ++ exchangesOf (payloadsFrom s s.cnt.toNat) rs
    replies := rest
    value := if s.op = .rd1 then rs.getLastD s.value else s.value
    rxbuf := m
    cnt := s.cnt + BitVec.ofNat 8 rs.length
    phase := afterExchange s (s.cnt + BitVec.ofNat 8 rs.length) }

theorem afterPayloads_nil {rest : List Byte} (hp : s.phase = afterExchange s s.cnt) (hr : s.replies = rest) :
    afterPayloads s [] rest s.rxbuf = s := by
  simp [afterPayloads, exchangesOf, ← hp, ← hr]

theorem afterPayloads_cons {r : Byte} {rs rest rest' : List Byte} {m : Memory} (hr : s.replies = r :: rest')
    (hlt : s.cnt.toNat < (payloadCount s).toNat) :
    afterPayloads s (r :: rs) rest m = afterPayloads (rowXp s) rs rest m := by
  have hsame := sameRequest_rowXp s
  simp only [afterPayloads, hsame.payloadsFrom_eq, hsame.afterExchange_eq]
  rw [rowXp_cons hr]
  have hcnt : s.cnt + 1 + BitVec.ofNat 8 rs.length = s.cnt + BitVec.ofNat 8 (rs.length + 1) := by
    rw [BitVec.add_assoc, Nat.add_comm, BitVec.ofNat_add]
    rfl
  by_cases ho : s.op = .rd1 <;>
    simp only [payloadsFrom_cnt hlt, cnt_succ hlt, hcnt, exchangesOf, ho, if_true, if_false, List.length_cons,
      List.getLastD_cons, List.zipWith_cons_cons, List.append_assoc, List.singleton_append]

/-- The payload exchanges that the replies answer, of any operation (R70). -/
theorem run_payloads (rs : List Byte) (s : State) (rest : List Byte) (hp : s.phase = afterExchange s s.cnt)
    (hl : s.cnt.toNat + rs.length ≤ (payloadCount s).toNat) (hr : s.replies = rs ++ rest) :
    ∃ m, (s.op ≠ .rdn → m = s.rxbuf) ∧ ∀ n, run (n + rs.length) s = run n (afterPayloads s rs rest m) := by
  induction rs generalizing s with
  | nil => exact ⟨s.rxbuf, fun _ => rfl, fun n => by rw [afterPayloads_nil (rest := rest) hp hr]; rfl⟩
  | cons r rs ih =>
    simp only [List.length_cons] at hl
    have hlt : s.cnt.toNat < (payloadCount s).toNat := by omega
    have hpx : s.phase = .xp := by rw [hp, afterExchange_eq, if_pos hlt]
    have hsame := sameRequest_rowXp s
    have hcnt : (rowXp s).cnt = s.cnt + 1 := by rw [rowXp_cons hr]
    obtain ⟨m, hm, hrun⟩ := ih (rowXp s) (by rw [hsame.afterExchange_eq, hcnt, rowXp_cons hr])
      (by rw [hsame.payloadCount_eq, hcnt, cnt_succ hlt]; omega) (by rw [rowXp_cons hr]; rfl)
    refine ⟨m, fun ho => (hm (hsame.op ▸ ho)).trans ((ownResults_rowXp s).rxbuf ho), fun n => ?_⟩
    rw [afterPayloads_cons hr hlt, ← hrun n]
    exact run_xp (n := n + rs.length) hpx hr

/-! ### From the gate on -/

/-- The events at the opening of a bracket (R64). -/
def openingEvents (s : State) : List Event :=
  [.busBegin s.cfgClk .msbFirst .idleLowSampleRising, .csWrite s.cfgCs .low, .delay s.par.tSettleUs]

/-- The events at the closing of a bracket (R65). -/
def closingEvents (s : State) : List Event :=
  [.csWrite s.cfgCs .high, .delay s.par.tSettleUs, .busEnd]

/-- The operation waits at `X0` for the reply to its command byte. -/
def atCommand (s : State) : State :=
  { s with
    cmdb := commandByte s, trace := s.trace ++ openingEvents s, busHeld := true, csLevel := .low, phase := .x0 }

/-- The operation after the reply `r` to its command byte and the replies `rs` to payload bytes, the replies `rest` to
come and `m` in the receive buffer. -/
def afterExchanges (s : State) (r : Byte) (rs rest : List Byte) (m : Memory) : State :=
  { s with
    cmdb := commandByte s
    trace := s.trace ++ (openingEvents s ++ .xfer (commandByte s) r :: exchangesOf (payloads s) rs)
    replies := rest
    busHeld := true
    csLevel := .low
    status := if isRead s.op then r else s.status
    value := if s.op = .rd1 then rs.getLastD s.value else s.value
    rxbuf := m
    cnt := BitVec.ofNat 8 rs.length
    phase := afterExchange s (BitVec.ofNat 8 rs.length) }

/-- What the payload exchanges of an operation have made of its receive buffer: `RDN` filled it from 0 on with the
replies, the others left it (R70, R77). -/
structure Received (s : State) (rs : List Byte) (m : Memory) : Prop where
  kept : s.op ≠ .rdn → m = s.rxbuf
  filled : s.op = .rdn → s.rxbuf.wf = true →
    ∀ k : Byte, m.read k = if k.toNat < rs.length then rs.getD k.toNat 0 else s.rxbuf.read k

/-- The operation after the reply `r` to its command byte, the replies `rest` to come. -/
def afterCommand (s : State) (r : Byte) (rest : List Byte) : State := afterExchanges s r [] rest s.rxbuf

theorem sameRequest_afterCommand (s : State) (r : Byte) (rest : List Byte) : SameRequest s (afterCommand s r rest) := by
  constructor <;> rfl

theorem afterPayloads_afterCommand (s : State) (r : Byte) (rs rest : List Byte) (m : Memory) :
    afterPayloads (afterCommand s r (rs ++ rest)) rs rest m = afterExchanges s r rs rest m := by
  have hsame := sameRequest_afterCommand s r (rs ++ rest)
  rw [afterPayloads, hsame.afterExchange_eq, hsame.payloadsFrom_eq]
  simp [afterCommand, afterExchanges, payloads, exchangesOf]

theorem run_command {n : Nat} {r : Byte} {rest : List Byte} (hp : s.phase = .gate) (hg : passesGate s = true)
    (hr : s.replies = r :: rest) : run (n + 5) s = run n (afterCommand s r rest) := by
  rw [run_to_payload hp hg hr]
  simp [afterCommand, afterExchanges, openingEvents, exchangesOf]

theorem payloadCount_rdn (ho : s.op = .rdn) : payloadCount s = s.len := by
  simp [payloadCount, ho]

/-- From the gate through the exchanges that are answered (R64, R69, R70). -/
theorem run_exchanges {r : Byte} {rs rest : List Byte} (hp : s.phase = .gate) (hg : passesGate s = true)
    (hl : rs.length ≤ (payloadCount s).toNat) (hr : s.replies = r :: (rs ++ rest)) :
    ∃ m, Received s rs m ∧ ∀ n, run (n + rs.length + 5) s = run n (afterExchanges s r rs rest m) := by
  have hsame := sameRequest_afterCommand s r (rs ++ rest)
  have hphase : (afterCommand s r (rs ++ rest)).phase = afterExchange (afterCommand s r (rs ++ rest)) 0 :=
    (hsame.afterExchange_eq 0).symm
  have hlen : (0 : Byte).toNat + rs.length ≤ (payloadCount (afterCommand s r (rs ++ rest))).toNat := by
    rw [hsame.payloadCount_eq]
    simpa using hl
  obtain ⟨m, hm, hrun⟩ := run_payloads rs (afterCommand s r (rs ++ rest)) rest hphase hlen rfl
  refine ⟨m, ⟨hm, fun ho hw k => ?_⟩, fun n => ?_⟩
  · obtain ⟨m', c, -, hrun', -, hread⟩ :=
      run_reads rs 0 (afterCommand s r (rs ++ rest)) rest ho hphase (payloadCount_rdn (hsame.op.trans ho) ▸ hlen) rfl hw
    have hmm : m = m' := congrArg State.rxbuf ((hrun 0).symm.trans hrun')
    rw [hmm, hread k]
    simp [afterCommand, afterExchanges]
  · rw [← afterPayloads_afterCommand, run_command hp hg hr, hrun]

/-! ### Where the operation stops -/

theorem fuel_split {k : Nat} (hk : k ≤ 255) : longestOperation = 255 - k + 4 + k + 5 := by
  simp only [longestOperation]
  omega

/-- The command byte is not answered (R74, R106). -/
theorem run_unanswered (hp : s.phase = .gate) (hg : passesGate s = true) (hr : s.replies = []) :
    run longestOperation s = atCommand s :=
  (run_gate_pass (n := 260) hp hg).trans (run_of_quiescent (s := atCommand s) (quiescent_stuck ⟨.inl rfl, hr⟩))

/-- A payload byte is not answered (R74, R106). -/
theorem run_partly_answered {r : Byte} {rs : List Byte} (hp : s.phase = .gate) (hg : passesGate s = true)
    (hr : s.replies = r :: rs) (hl : rs.length < (payloadCount s).toNat) :
    ∃ m, Received s rs m ∧ run longestOperation s = afterExchanges s r rs [] m ∧
      (afterExchanges s r rs [] m).phase = .xp := by
  have hn := (payloadCount s).isLt
  obtain ⟨m, hm, hrun⟩ := run_exchanges (rest := []) hp hg hl.le (by simpa using hr)
  have hcnt : (BitVec.ofNat 8 rs.length).toNat = rs.length := by
    rw [BitVec.toNat_ofNat, Nat.mod_eq_of_lt (by omega)]
  have hxp : (afterExchanges s r rs [] m).phase = .xp := (afterExchange_eq _).trans (if_pos (hcnt.symm ▸ hl))
  refine ⟨m, hm, ?_, hxp⟩
  rw [fuel_split (k := rs.length) (by omega), hrun]
  exact run_of_quiescent (quiescent_stuck ⟨.inr hxp, rfl⟩)

/-- The operation has ended: the bracket is closed and the response given. -/
def answered (s : State) (r : Byte) (rs rest : List Byte) (m : Memory) : State :=
  { s with
    cmdb := commandByte s
    trace := s.trace ++ bracket s (.xfer (commandByte s) r :: exchangesOf (payloads s) rs)
    replies := rest
    busHeld := false
    csLevel := .high
    status := if isRead s.op then r else s.status
    value := if s.op = .rd1 then rs.getLastD s.value else s.value
    rxbuf := m
    cnt := payloadCount s
    responses := s.responses ++ [responseOf { s with status := r, value := rs.getLastD s.value }]
    phase := .idle }

/-- The response is made of the latches the exchanges left (R56, R71). -/
theorem responseOf_afterExchanges (s : State) (r : Byte) (rs rest : List Byte) (m : Memory) :
    responseOf (afterExchanges s r rs rest m) = responseOf { s with status := r, value := rs.getLastD s.value } := by
  cases ho : s.op <;> simp [responseOf, afterExchanges, isRead, ho]

/-- Every exchange is answered (R65, R71). -/
theorem run_answered {r : Byte} {rs rest : List Byte} (hp : s.phase = .gate) (hg : passesGate s = true)
    (hr : s.replies = r :: (rs ++ rest)) (hl : rs.length = (payloadCount s).toNat) :
    ∃ m, Received s rs m ∧ run longestOperation s = answered s r rs rest m := by
  have hn := (payloadCount s).isLt
  obtain ⟨m, hm, hrun⟩ := run_exchanges hp hg hl.le hr
  have hcnt : BitVec.ofNat 8 rs.length = payloadCount s := by rw [hl, BitVec.ofNat_toNat, BitVec.setWidth_eq]
  have he1 : (afterExchanges s r rs rest m).phase = .e1 :=
    (afterExchange_eq _).trans (if_neg (hcnt.symm ▸ lt_irrefl _))
  refine ⟨m, hm, ?_⟩
  rw [fuel_split (k := rs.length) (by omega), hrun, run_end he1, responseOf_afterExchanges]
  simp [answered, afterExchanges, hcnt, bracket, openingEvents]

end Sys2Proof.Machine
end

section
/-! The five operations from `IDLE` (R76 to R80, R86, R106): the request in the latches, then where the operation stops:
answered, answered in part, unanswered, or at the gate. -/

namespace Sys2Proof.Machine

variable {s t : State}

theorem exec_cmd (code b : Byte) (s : State) : exec (.cmd code b) s = perform .cmd code b 0 s := rfl

theorem exec_wr1 (idx val : Byte) (s : State) : exec (.wr1 idx val) s = perform .wr1 idx val 0 s := rfl

theorem exec_wrn (idx len : Byte) (s : State) : exec (.wrn idx len) s = perform .wrn idx len 0 s := rfl

/-! ### Completed operations -/

theorem perform_answered {op : Op} {a b r : Byte} {rs rest : List Byte} (hp : s.phase = .idle) (ho : op ≠ .init)
    (hg : passesGate (latchRequest op a b 0 s) = true) (hr : s.replies = r :: (rs ++ rest))
    (hl : rs.length = (payloadCount (latchRequest op a b 0 s)).toNat) :
    ∃ m, Received (latchRequest op a b 0 s) rs m ∧
      perform op a b 0 s = .next (answered (latchRequest op a b 0 s) r rs rest m) := by
  obtain ⟨m, hm, hrun⟩ := run_answered (s := latchRequest op a b 0 s) (if_neg ho) hg hr hl
  exact ⟨m, hm, by rw [perform_idle hp ho, hrun]⟩

/-- The gate turns the index down: the results of an invalid index and the response follow at once (R68, R86). -/
theorem perform_invalid {op : Op} {a b : Byte} (hp : s.phase = .idle) (ho : indexed op = true)
    (hv : s.par.numRegisters ≤ a.toNat) :
    perform op a b 0 s = .next
      { invalidResult (latchRequest op a b 0 s) with
        responses := (invalidResult (latchRequest op a b 0 s)).responses ++
          [responseOf (invalidResult (latchRequest op a b 0 s))]
        phase := .idle } := by
  rw [perform_idle hp (ne_init_of_indexed ho), longestOperation,
    run_gate_fail (n := 262) (latchRequest_phase_indexed ho) (passesGate_latchRequest_invalid ho hv)]

/-- Settles O33: one payload byte, the filler; its reply is the value. -/
theorem readSingleByte : Obligations.ReadSingleByte := by
  refine ⟨fun w hw => ⟨fieldB w, decodeDescriptor_rd1 hw⟩, fun s idx b hp => ⟨fun hv st v rest hr => ?_, fun hv => ?_⟩⟩
  · obtain ⟨m, hm, hrun⟩ := perform_answered (op := .rd1) (b := b) (rs := [v]) hp (by decide)
      (passesGate_latchRequest_valid rfl hv) hr rfl
    obtain rfl := hm.kept (by simp)
    rw [exec_rd1, hrun, answered, payloads_rd1 rfl]
    simp [latchRequest, commandByte, payloadCount, isRead, responseOf, bracket, exchangesOf, hp]
  · refine ⟨nextDraw s, s.draws + 1, ?_⟩
    rw [exec_rd1, perform_invalid hp rfl hv, invalidResult_rd1 rfl]
    simp [latchRequest, responseOf, sentinelStatus, nextDraw, hp]

/-- Settles O34: `len` fillers, their replies in `RXBUF`. -/
theorem readMultipleBytes : Obligations.ReadMultipleBytes := by
  refine ⟨fun w hw => decodeDescriptor_rdn hw, fun s idx len hp hw => ⟨fun hv st rs rest hr hl => ?_, fun hv => ?_⟩⟩
  · obtain ⟨m, hm, hrun⟩ := perform_answered (op := .rdn) hp (by decide)
      (passesGate_latchRequest_valid rfl hv) hr hl
    refine ⟨m, ?_, fun k => by simpa [hl] using hm.filled rfl hw k⟩
    rw [exec_rdn, hrun, answered, payloads_rdn rfl]
    simp [latchRequest, commandByte, payloadCount, isRead, responseOf, bracket, hp]
  · obtain ⟨m, n, hres, hm⟩ := invalidResult_rdn (s := latchRequest .rdn idx len 0 s) rfl hw
    refine ⟨m, n, ?_, hm⟩
    rw [exec_rdn, perform_invalid hp rfl hv, hres]
    simp [latchRequest, responseOf, sentinelStatus, hp]

/-- Settles O35: no gate and no payload. -/
theorem bareCommand : Obligations.BareCommand := by
  refine ⟨fun w hw => ⟨fieldB w, decodeDescriptor_cmd hw⟩, fun s code b r rest hp hr => ?_⟩
  obtain ⟨m, hm, hrun⟩ := perform_answered (op := .cmd) (a := code) (b := b) (rs := []) hp (by decide) rfl hr rfl
  obtain rfl := hm.kept (by simp)
  rw [exec_cmd, hrun, answered, payloads_cmd rfl]
  simp [latchRequest, commandByte, payloadCount, isRead, responseOf, bracket, exchangesOf, hp]

/-- Settles O36: one payload byte, the value; no result is kept. -/
theorem writeSingleByte : Obligations.WriteSingleByte := by
  refine ⟨fun w hw => decodeDescriptor_wr1 hw, fun s idx val hp => ⟨fun hv r0 r1 rest hr => ?_, fun hv => ?_⟩⟩
  · obtain ⟨m, hm, hrun⟩ := perform_answered (op := .wr1) (b := val) (rs := [r1]) hp (by decide)
      (passesGate_latchRequest_valid rfl hv) hr rfl
    obtain rfl := hm.kept (by simp)
    rw [exec_wr1, hrun, answered, payloads_wr1 rfl]
    simp [latchRequest, commandByte, payloadCount, isRead, responseOf, bracket, exchangesOf, hp]
  · rw [exec_wr1, perform_invalid hp rfl hv, invalidResult_write (.inl rfl)]
    simp [latchRequest, responseOf, hp]

/-- Settles O37: the bytes of `TXBUF` in order; no result is kept. -/
theorem writeMultipleBytes : Obligations.WriteMultipleBytes := by
  refine ⟨fun w hw => decodeDescriptor_wrn hw, fun s idx len hp => ⟨fun hv r rs rest hr hl => ?_, fun hv => ?_⟩⟩
  · obtain ⟨m, hm, hrun⟩ := perform_answered (op := .wrn) hp (by decide)
      (passesGate_latchRequest_valid rfl hv) hr hl
    obtain rfl := hm.kept (by simp)
    rw [exec_wrn, hrun, answered, payloads_wrn rfl]
    simp [latchRequest, commandByte, payloadCount, isRead, responseOf, bracket, hp]
  · rw [exec_wrn, perform_invalid hp rfl hv, invalidResult_write (.inr rfl)]
    simp [latchRequest, responseOf, hp]

/-! ### Hangs -/

theorem openingEvents_latchRequest {op : Op} {a b : Byte} (ho : op ≠ .init) :
    openingEvents (latchRequest op a b 0 s) = openingEvents s := by
  simp [openingEvents, ho]

/-- The state of an operation whose first exchange is never answered (R74 (c)). -/
theorem perform_unanswered {op : Op} {a b : Byte} (hp : s.phase = .idle) (ho : op ≠ .init)
    (hg : passesGate (latchRequest op a b 0 s) = true) (hr : s.replies = []) :
    ∃ t, perform op a b 0 s = .next t ∧ t.phase = .x0 ∧ t.responses = s.responses ∧ t.csLevel = .low ∧
      t.busHeld = true ∧ t.trace = s.trace ++ openingEvents s ∧ t.stuck := by
  have hrun := run_unanswered (s := latchRequest op a b 0 s) (if_neg ho) hg hr
  refine ⟨atCommand (latchRequest op a b 0 s), by rw [perform_idle hp ho, hrun], rfl, rfl, rfl, rfl, ?_, .inl rfl, hr⟩
  rw [← openingEvents_latchRequest ho]
  rfl

/-- Settles O41: the gate passes a valid index and every code. -/
theorem unansweredCommandByteHangs : Obligations.UnansweredCommandByteHangs := by
  rintro s i a hp hr (⟨⟨b, rfl⟩ | ⟨b, rfl⟩ | ⟨b, rfl⟩ | ⟨b, rfl⟩, hv⟩ | ⟨b, rfl⟩)
  · exact perform_unanswered (op := .rd1) hp (by decide) (passesGate_latchRequest_valid rfl hv) hr
  · exact perform_unanswered (op := .rdn) hp (by decide) (passesGate_latchRequest_valid rfl hv) hr
  · exact perform_unanswered (op := .wr1) hp (by decide) (passesGate_latchRequest_valid rfl hv) hr
  · exact perform_unanswered (op := .wrn) hp (by decide) (passesGate_latchRequest_valid rfl hv) hr
  · exact perform_unanswered (op := .cmd) hp (by decide) rfl hr

/-- The state of an indexed operation whose payload is answered only in part (R74 (c)). -/
theorem perform_partly_answered {op : Op} {a b r : Byte} {rs : List Byte} (hp : s.phase = .idle)
    (ho : indexed op = true) (hv : a.toNat < s.par.numRegisters) (hr : s.replies = r :: rs)
    (hl : rs.length < (payloadCount (latchRequest op a b 0 s)).toNat) :
    ∃ t, perform op a b 0 s = .next t ∧ t.phase = .xp ∧ t.cnt = BitVec.ofNat 8 rs.length ∧
      t.status = (if isRead op then r else s.status) ∧ (rs = [] ∨ op ≠ .rd1 → t.value = s.value) ∧
      t.responses = s.responses ∧ t.csLevel = .low ∧ t.busHeld = true ∧ t.stuck ∧
      t.trace = s.trace ++ (openingEvents s ++ .xfer (commandByte (latchRequest op a b 0 s)) r ::
        exchangesOf ((payloads (latchRequest op a b 0 s)).take rs.length) rs) ∧
      Received (latchRequest op a b 0 s) rs t.rxbuf := by
  obtain ⟨m, hm, hrun, hxp⟩ := run_partly_answered (s := latchRequest op a b 0 s) (latchRequest_phase_indexed ho)
    (passesGate_latchRequest_valid ho hv) hr hl
  refine ⟨_, by rw [perform_idle hp (ne_init_of_indexed ho), hrun], hxp, rfl, rfl, fun hval => ?_, rfl, rfl, rfl,
    ⟨.inr hxp, rfl⟩, ?_, hm⟩
  · rcases hval with rfl | hrd1 <;> simp [afterExchanges, *]
  · rw [exchangesOf_take, ← openingEvents_latchRequest (ne_init_of_indexed ho)]
    rfl

/-- Settles O42: the fillers that are answered are the first of all. -/
theorem partlyAnsweredReadHangs : Obligations.PartlyAnsweredReadHangs := by
  intro s idx len st rs hp hw hv hr hl
  obtain ⟨t, h, hxp, hcnt, hst, -, hresp, hlevel, hheld, hstuck, htrace, hm⟩ :=
    perform_partly_answered (op := .rdn) hp rfl hv hr hl
  refine ⟨t, h, hxp, hcnt, hst, hresp, hlevel, hheld, hstuck, ?_, hm.filled rfl hw⟩
  rw [htrace, payloads_rdn rfl, List.take_replicate, latchRequest_len, min_eq_left hl.le]
  rfl

/-- Settles O43: the bytes of `TXBUF` that are answered are the first of all. -/
theorem partlyAnsweredWriteHangs : Obligations.PartlyAnsweredWriteHangs := by
  intro s idx len st rs hp hv hr hl
  obtain ⟨t, h, hxp, hcnt, hst, -, hresp, hlevel, hheld, hstuck, htrace, -⟩ :=
    perform_partly_answered (op := .wrn) hp rfl hv hr hl
  refine ⟨t, h, hxp, hcnt, hst, hresp, hlevel, hheld, hstuck, ?_⟩
  rw [htrace, payloads_wrn rfl, ← List.map_take, List.take_range, latchRequest_len, min_eq_left hl.le]
  rfl

/-- Settles O44: no payload byte is answered. -/
theorem partlyAnsweredSingleHangs : Obligations.PartlyAnsweredSingleHangs := by
  intro s idx b st hp hv hr
  refine ⟨?_, ?_⟩
  · obtain ⟨t, h, hxp, hcnt, hst, hvalue, hresp, hlevel, hheld, hstuck, htrace, -⟩ :=
      perform_partly_answered (op := .rd1) (b := b) hp rfl hv hr Nat.zero_lt_one
    exact ⟨t, h, hxp, hcnt, hst, hvalue (.inl rfl), hresp, hlevel, hheld, hstuck, htrace⟩
  · obtain ⟨t, h, hxp, hcnt, hst, hvalue, hresp, hlevel, hheld, hstuck, htrace, -⟩ :=
      perform_partly_answered (op := .wr1) (b := b) hp rfl hv hr Nat.zero_lt_one
    exact ⟨t, h, hxp, hcnt, hst, hvalue (.inl rfl), hresp, hlevel, hheld, hstuck, htrace⟩

/-! ### An invalid index -/

theorem responseOf_invalidResult_read (ho : s.op = .rd1 ∨ s.op = .rdn) :
    ∃ v, responseOf (invalidResult s) = if s.op = .rd1 then .statusValue 0xFF v else .status 0xFF := by
  obtain ⟨v, m, d, hres⟩ := invalidResult_read ho
  refine ⟨v, ?_⟩
  rw [hres]
  rcases ho with ho | ho <;> simp [responseOf, sentinelStatus, ho]

theorem responseOf_invalidResult_write (ho : s.op = .wr1 ∨ s.op = .wrn) :
    responseOf (invalidResult s) = .completion := by
  rw [invalidResult_write ho]
  rcases ho with ho | ho <;> simp [responseOf, ho]

/-- What an operation can change of the buffers: `RDN` the bytes of `RXBUF` below its length, nothing else. -/
theorem perform_buffers {op : Op} {a b : Byte} (ho : op ≠ .init) (hw : s.rxbuf.wf = true)
    (h : perform op a b 0 s = .next t) :
    (∀ k, t.txbuf.read k = s.txbuf.read k) ∧
      ∀ k : Byte, op ≠ .rdn ∨ b.toNat ≤ k.toNat → t.rxbuf.read k = s.rxbuf.read k := by
  obtain ⟨⟨-, -, -, -, htx⟩, -, -, hrx⟩ := perform_frame ho h
  refine ⟨fun k => by rw [htx], fun k hk => ?_⟩
  by_cases hrdn : op = .rdn
  · subst hrdn
    obtain ⟨-, -, -, -, -, -, hread⟩ := (readFrame s t a b hw).2 h
    exact hread k (hk.resolve_left (· rfl))
  · rw [hrx hrdn]

/-- An invalid index leaves the trace, the line, the configuration, the replies and the buffers but for the bytes `RDN`
may draw; the response is that of the operation's invalid result (R86). -/
theorem perform_invalid_frame {op : Op} {a b : Byte} (hp : s.phase = .idle) (hw : s.rxbuf.wf = true)
    (ho : indexed op = true) (hv : s.par.numRegisters ≤ a.toNat) :
    ∃ t, perform op a b 0 s = .next t ∧
      t.responses = s.responses ++ [responseOf (invalidResult (latchRequest op a b 0 s))] ∧
      t.phase = .idle ∧ t.trace = s.trace ∧ t.csLevel = s.csLevel ∧ t.busHeld = s.busHeld ∧ t.cfgClk = s.cfgClk ∧
      t.cfgCs = s.cfgCs ∧ t.replies = s.replies ∧ (∀ k, t.txbuf.read k = s.txbuf.read k) ∧
      ∀ k : Byte, op ≠ .rdn ∨ b.toNat ≤ k.toNat → t.rxbuf.read k = s.rxbuf.read k := by
  have hop := ne_init_of_indexed ho
  have hrun := perform_invalid (b := b) hp ho hv
  obtain ⟨htx, hrx⟩ := perform_buffers hop hw hrun
  obtain ⟨st, v, m, d, hres, -⟩ := invalidResult_spec (latchRequest op a b 0 s)
  refine ⟨_, hrun, ?_, rfl, ?_, ?_, ?_, ?_, ?_, ?_, htx, hrx⟩ <;> rw [hres] <;> simp [hop]

/-- The four instructions of an indexed operation: which one it is, their operation says. -/
theorem exec_indexed {i : Instr} {idx b : Byte}
    (hi : i = .rd1 idx b ∨ i = .rdn idx b ∨ i = .wr1 idx b ∨ i = .wrn idx b) :
    ∃ op, indexed op = true ∧ (∀ u, exec i u = perform op idx b 0 u) ∧ (i = .rd1 idx b ↔ op = .rd1) ∧
      (i = .rdn idx b ↔ op = .rdn) ∧ (i = .wr1 idx b ∨ i = .wrn idx b ↔ op = .wr1 ∨ op = .wrn) := by
  rcases hi with rfl | rfl | rfl | rfl
  · exact ⟨.rd1, rfl, fun _ => rfl, by simp⟩
  · exact ⟨.rdn, rfl, fun _ => rfl, by simp⟩
  · exact ⟨.wr1, rfl, fun _ => rfl, by simp⟩
  · exact ⟨.wrn, rfl, fun _ => rfl, by simp⟩

/-- Settles O50: the frame of an invalid index, with the response of each kind of operation. -/
theorem invalidIndexLeavesTheBusAlone : Obligations.InvalidIndexLeavesTheBusAlone := by
  intro s idx b hp hw hv i hi
  obtain ⟨op, ho, hexec, hrd1, hrdn, hwr⟩ := exec_indexed hi
  obtain ⟨t, h, hresp, hidle, htrace, hlevel, hheld, hclk, hcs, hrep, htx, hrx⟩ :=
    perform_invalid_frame (b := b) hp hw ho hv
  rw [hexec, hrd1, hwr, ne_eq, hrdn]
  refine ⟨t, h, hidle, htrace, hlevel, hheld, hclk, hcs, hrep, htx, hrx, fun hop => ?_, fun hop => ?_, fun hop => ?_⟩
  · obtain ⟨v, hread⟩ := responseOf_invalidResult_read (s := latchRequest op idx b 0 s) (.inl hop)
    exact ⟨v, hresp.trans (by rw [hread, latchRequest_op, if_pos hop])⟩
  · obtain ⟨v, hread⟩ := responseOf_invalidResult_read (s := latchRequest op idx b 0 s) (.inr hop)
    exact hresp.trans (by rw [hread, latchRequest_op, if_neg (by simp [hop])])
  · exact hresp.trans (by rw [responseOf_invalidResult_write (s := latchRequest op idx b 0 s) hop])

end Sys2Proof.Machine
end

section
/-! The course of an operation, whatever the environment answers (R31, R40, R74, R106): its events, its response, where
it stops and which replies are left, as functions of what the gate sees, the payload bytes and the replies. Operations
that agree in those take the same course. -/

namespace Sys2Proof.Machine

variable {s t u : State}

/-! ### The course -/

/-- The events an operation at the gate still appends: those of the exchanges that are answered, and the end of the
bracket if all are. -/
def courseEvents (s : State) : List Event :=
  if passesGate s then
    openingEvents s ++ exchangesOf (commandByte s :: payloads s) s.replies ++
      if (payloads s).length < s.replies.length then closingEvents s else []
  else []

/-- The responses it still gives: one, unless an exchange is not answered. -/
def courseResponses (s : State) : List Response :=
  if passesGate s then
    if (payloads s).length < s.replies.length then
      [responseOf { s with status := s.replies.getD 0 0, value := s.replies.getD 1 0 }]
    else []
  else [responseOf (invalidResult s)]

/-- Where it stops. -/
def coursePhase (s : State) : Phase :=
  if passesGate s ∧ s.replies.length ≤ (payloads s).length then if s.replies = [] then .x0 else .xp else .idle

/-- The replies it leaves. -/
def courseReplies (s : State) : List Byte :=
  if passesGate s then s.replies.drop ((payloads s).length + 1) else s.replies

/-- The operation at the gate in `s` has stopped in `t`. -/
structure Course (s t : State) : Prop where
  trace : t.trace = s.trace ++ courseEvents s
  responses : t.responses = s.responses ++ courseResponses s
  phase : t.phase = coursePhase s
  replies : t.replies = courseReplies s

theorem exchangesOf_cons (tx rx : Byte) (txs rxs : List Byte) :
    exchangesOf (tx :: txs) (rx :: rxs) = .xfer tx rx :: exchangesOf txs rxs := rfl

theorem exchangesOf_take_right (txs rxs : List Byte) :
    exchangesOf txs (rxs.take txs.length) = exchangesOf txs rxs := by
  induction txs generalizing rxs with
  | nil => rfl
  | cons x txs ih =>
    cases rxs with
    | nil => rfl
    | cons r rxs => simpa [exchangesOf] using ih rxs

/-- Only `RD1` responds with a value (R56). -/
theorem responseOf_value_congr {st v v' : Byte} (h : s.op = .rd1 → v = v') :
    responseOf { s with status := st, value := v } = responseOf { s with status := st, value := v' } := by
  cases ho : s.op with
  | rd1 => rw [h ho]
  | init | rdn | cmd | wr1 | wrn => simp [responseOf]

theorem course_gate_fail (hp : s.phase = .gate) (hg : passesGate s = false) : Course s (run longestOperation s) := by
  obtain ⟨st, v, m, d, hres, -⟩ := invalidResult_spec s
  rw [longestOperation, run_gate_fail (n := 262) hp hg]
  constructor <;> simp [courseEvents, courseResponses, coursePhase, courseReplies, hg, hres]

theorem course_unanswered (hp : s.phase = .gate) (hg : passesGate s = true) (hr : s.replies = []) :
    Course s (run longestOperation s) := by
  rw [run_unanswered hp hg hr]
  constructor <;>
    simp [atCommand, courseEvents, courseResponses, coursePhase, courseReplies, exchangesOf, hg, hr]

theorem course_partly_answered {r : Byte} {rs : List Byte} (hp : s.phase = .gate) (hg : passesGate s = true)
    (hr : s.replies = r :: rs) (hl : rs.length < (payloads s).length) : Course s (run longestOperation s) := by
  obtain ⟨m, -, hrun, hxp⟩ := run_partly_answered hp hg hr (length_payloads s ▸ hl)
  rw [hrun]
  have hshort : ¬ (payloads s).length < rs.length + 1 := by omega
  have hleft : rs.drop (payloads s).length = [] := List.drop_eq_nil_of_le hl.le
  constructor
  case phase => simpa [coursePhase, hg, hr, hl] using hxp
  all_goals
    simp [afterExchanges, courseEvents, courseResponses, courseReplies, exchangesOf_cons, hg, hr, hshort, hleft]

theorem course_answered {r : Byte} {rs : List Byte} (hp : s.phase = .gate) (hg : passesGate s = true)
    (hr : s.replies = r :: rs) (hl : (payloads s).length ≤ rs.length) : Course s (run longestOperation s) := by
  have htake : (rs.take (payloads s).length).length = (payloads s).length := List.length_take_of_le hl
  obtain ⟨m, -, hrun⟩ := run_answered (rs := rs.take (payloads s).length) (rest := rs.drop (payloads s).length) hp hg
    (by rw [hr, List.take_append_drop]) (htake.trans (length_payloads s))
  have hlong : (payloads s).length < rs.length + 1 := by omega
  have hvalue : responseOf { s with status := r, value := (rs.take (payloads s).length).getLastD s.value } =
      responseOf { s with status := r, value := rs.getD 0 0 } := by
    refine responseOf_value_congr fun ho => ?_
    rw [payloads_rd1 ho] at hl ⊢
    cases rs with
    | nil => cases hl
    | cons v rs => rfl
  rw [hrun]
  constructor
  case trace =>
    simp [answered, courseEvents, bracket, openingEvents, closingEvents, exchangesOf_take_right, exchangesOf_cons, hg,
      hr, hlong]
  case responses => simp only [answered, hvalue]; simp [courseResponses, hg, hr, hlong]
  all_goals simp [answered, coursePhase, courseReplies, hg, hr, hl]

theorem run_course (hp : s.phase = .gate) : Course s (run longestOperation s) := by
  cases hg : passesGate s with
  | false => exact course_gate_fail hp hg
  | true =>
    cases hr : s.replies with
    | nil => exact course_unanswered hp hg hr
    | cons r rs =>
      rcases lt_or_ge rs.length (payloads s).length with hl | hl
      · exact course_partly_answered hp hg hr hl
      · exact course_answered hp hg hr hl

/-- An operation from `IDLE` takes the course of its latched request. -/
theorem perform_course {op : Op} {a b : Byte} (hp : s.phase = .idle) (ho : op ≠ .init)
    (h : perform op a b 0 s = .next t) : Course (latchRequest op a b 0 s) t := by
  rw [perform_idle hp ho] at h
  exact Host.Outcome.next.inj h ▸ run_course (if_neg ho)

/-! ### How many exchanges, and that an answered operation ends -/

theorem exchanges_append (es fs : List Event) : exchanges (es ++ fs) = exchanges es + exchanges fs :=
  List.countP_append

theorem exchanges_exchangesOf {txs rxs : List Byte} (h : txs.length ≤ rxs.length) :
    exchanges (exchangesOf txs rxs) = txs.length := by
  induction txs generalizing rxs with
  | nil => rfl
  | cons x txs ih =>
    cases rxs with
    | nil => cases h
    | cons r rxs =>
      rw [exchangesOf_cons, exchanges, List.countP_cons_of_pos rfl]
      exact congrArg (· + 1) (ih (Nat.le_of_succ_le_succ h))

/-- A whole bracket has one exchange for the command byte and one for each payload byte (R40). -/
theorem exchanges_courseEvents (hg : passesGate s = true) (hl : (payloads s).length < s.replies.length) :
    exchanges (courseEvents s) = 1 + (payloads s).length := by
  have hopen : exchanges (openingEvents s) = 0 := rfl
  have hclose : exchanges (closingEvents s) = 0 := rfl
  have hmid : exchanges (exchangesOf (commandByte s :: payloads s) s.replies) = (payloads s).length + 1 :=
    exchanges_exchangesOf hl
  rw [courseEvents, if_pos hg, if_pos hl, exchanges_append, exchanges_append, hopen, hclose, hmid]
  omega

theorem length_replies_of_course_idle (h : Course s t) (hg : passesGate s = true) (ht : t.phase = .idle) :
    (payloads s).length < s.replies.length := by
  by_contra hl
  have hphase := h.phase
  rw [ht, coursePhase, if_pos ⟨hg, not_lt.1 hl⟩] at hphase
  split at hphase <;> cases hphase

theorem perform_exchanges {op : Op} {a b : Byte} (hp : s.phase = .idle) (ho : op ≠ .init)
    (hg : passesGate (latchRequest op a b 0 s) = true) (h : perform op a b 0 s = .next t) (ht : t.phase = .idle) :
    exchanges t.trace = exchanges s.trace + (1 + (payloadCount (latchRequest op a b 0 s)).toNat) := by
  have hcourse := perform_course hp ho h
  rw [hcourse.trace, exchanges_append, exchanges_courseEvents hg (length_replies_of_course_idle hcourse hg ht),
    length_payloads]
  rfl

/-- Settles O53: a course that ends in `IDLE` made all its exchanges. -/
theorem exchangeCounts : Obligations.ExchangeCounts := by
  refine fun s t a b hp ht => ⟨fun h => ?_, fun hv => ⟨fun h => ?_, fun h => ?_, fun h => ?_, fun h => ?_⟩⟩
  · exact perform_exchanges (op := .cmd) hp (by decide) rfl h ht
  · exact perform_exchanges (op := .rd1) hp (by decide) (passesGate_latchRequest_valid rfl hv) h ht
  · exact perform_exchanges (op := .rdn) hp (by decide) (passesGate_latchRequest_valid rfl hv) h ht
  · exact perform_exchanges (op := .wr1) hp (by decide) (passesGate_latchRequest_valid rfl hv) h ht
  · exact perform_exchanges (op := .wrn) hp (by decide) (passesGate_latchRequest_valid rfl hv) h ht

theorem State.Inv.of_perform (hs : s.Inv) {op : Op} {a b : Byte} {clk : Hertz}
    (h : perform op a b clk s = .next t) : t.Inv := by
  rcases perform_next h with ⟨hacc, rfl⟩ | ⟨-, rfl⟩
  · exact run_induct (fun _ hu => hu.after_advance) _ _ (hs.after_latchRequest hacc)
  · exact hs

theorem perform_completes {op : Op} {a b : Byte} (hs : s.Inv) (hp : s.phase = .idle) (ho : op ≠ .init)
    (hr : 256 ≤ s.replies.length) :
    ∃ t r, perform op a b 0 s = .next t ∧ t.phase = .idle ∧ t.responses = s.responses ++ [r] ∧ t.csLevel = .high ∧
      t.busHeld = false := by
  have hlen : (payloads (latchRequest op a b 0 s)).length < s.replies.length := by
    have := (payloadCount (latchRequest op a b 0 s)).isLt
    rw [length_payloads]
    omega
  have hrun := perform_idle (a := a) (b := b) (clk := 0) hp ho
  have hcourse := perform_course hp ho hrun
  have hidle := hcourse.phase
  rw [coursePhase, if_neg fun h => hlen.not_ge h.2] at hidle
  obtain ⟨r, hresp⟩ : ∃ r, courseResponses (latchRequest op a b 0 s) = [r] := by
    rw [courseResponses]
    split
    · exact ⟨_, if_pos hlen⟩
    · exact ⟨_, rfl⟩
  obtain ⟨hlevel, hheld⟩ := (hs.of_perform hrun).line_of_idle hidle
  exact ⟨_, r, hrun, hidle, hresp ▸ hcourse.responses, hlevel, hheld⟩

/-- Settles O52: a frame has at most 256 exchanges, and what ends in `IDLE` has closed its bracket. -/
theorem answeredOperationsComplete : Obligations.AnsweredOperationsComplete := by
  rintro s i a b hs hp (rfl | rfl | rfl | rfl | rfl) hr
  · exact perform_completes (op := .rd1) hs hp (by decide) hr
  · exact perform_completes (op := .rdn) hs hp (by decide) hr
  · exact perform_completes (op := .cmd) hs hp (by decide) hr
  · exact perform_completes (op := .wr1) hs hp (by decide) hr
  · exact perform_completes (op := .wrn) hs hp (by decide) hr

/-! ### Operations with the same course -/

/-- All that the events of an operation at the gate depend on. -/
structure SameCourse (s t : State) : Prop where
  gate : passesGate s = passesGate t
  par : s.par = t.par
  cfgClk : s.cfgClk = t.cfgClk
  cfgCs : s.cfgCs = t.cfgCs
  command : commandByte s = commandByte t
  payload : payloads s = payloads t
  replies : s.replies = t.replies

theorem SameCourse.events (h : SameCourse s t) : courseEvents s = courseEvents t := by
  simp only [courseEvents, openingEvents, closingEvents, h.gate, h.par, h.cfgClk, h.cfgCs, h.command, h.payload,
    h.replies]

theorem SameCourse.phase (h : SameCourse s t) : coursePhase s = coursePhase t := by
  simp only [coursePhase, h.gate, h.payload, h.replies]

theorem SameCourse.repliesLeft (h : SameCourse s t) : courseReplies s = courseReplies t := by
  simp only [courseReplies, h.gate, h.payload, h.replies]

theorem invalidResponse_congr (ho : s.op = t.op) (hd : s.draws = t.draws) :
    responseOf (invalidResult s) = responseOf (invalidResult t) := by
  by_cases hrd1 : t.op = .rd1
  · rw [invalidResult_rd1 hrd1, invalidResult_rd1 (ho.trans hrd1)]
    simp [responseOf, nextDraw, ho, hd, hrd1]
  by_cases hrdn : t.op = .rdn
  · obtain ⟨v, hs⟩ := responseOf_invalidResult_read (.inr (ho.trans hrdn))
    obtain ⟨w, ht⟩ := responseOf_invalidResult_read (.inr hrdn)
    simp [hs, ht, ho, hrdn]
  · have hr : isRead t.op = false := by simp [← Bool.not_eq_true, isRead_iff, hrd1, hrdn]
    rw [invalidResult_not_read hr, invalidResult_not_read (ho ▸ hr), responseOf_not_read hrd1 hrdn,
      responseOf_not_read (ho ▸ hrd1) (ho ▸ hrdn)]

/-- The response depends further on the operation, and for an invalid index on the draws (R56, R86). -/
theorem SameCourse.responses (h : SameCourse s t) (ho : s.op = t.op) (hd : s.draws = t.draws) :
    courseResponses s = courseResponses t := by
  have hresp (st v : Byte) :
      responseOf { s with status := st, value := v } = responseOf { t with status := st, value := v } := by
    simp [responseOf, ho]
  rw [courseResponses, courseResponses, hresp, invalidResponse_congr ho hd, h.gate, h.payload, h.replies]

/-- Two idle states that agree outside the latches take a request the same course (R31). -/
theorem sameCourse_latchRequest {op : Op} {a b : Byte} (ho : op ≠ .init) (hpar : s.par = t.par)
    (hclk : s.cfgClk = t.cfgClk) (hcs : s.cfgCs = t.cfgCs) (htx : ∀ k, s.txbuf.read k = t.txbuf.read k)
    (hr : s.replies = t.replies) : SameCourse (latchRequest op a b 0 s) (latchRequest op a b 0 t) where
  gate := by cases op <;> simp [passesGate, latchRequest, hpar]
  par := hpar
  cfgClk := by simpa [ho] using hclk
  cfgCs := by simpa [ho] using hcs
  command := by cases op <;> simp [commandByte, latchRequest, hpar] at ho ⊢
  payload := by cases op <;> simp [payloads, payloadsFrom, payloadCount, payloadByte, latchRequest, htx]
  replies := hr

theorem perform_stateless {s₁ s₂ t₁ t₂ : State} {op : Op} {a b : Byte} (ho : op ≠ .init) (hp₁ : s₁.phase = .idle)
    (hp₂ : s₂.phase = .idle) (hpar : s₁.par = s₂.par) (hclk : s₁.cfgClk = s₂.cfgClk) (hcs : s₁.cfgCs = s₂.cfgCs)
    (htx : ∀ k, s₁.txbuf.read k = s₂.txbuf.read k) (hr : s₁.replies = s₂.replies) (hd : s₁.draws = s₂.draws)
    (h₁ : perform op a b 0 s₁ = .next t₁) (h₂ : perform op a b 0 s₂ = .next t₂) :
    ∃ es rs, t₁.trace = s₁.trace ++ es ∧ t₂.trace = s₂.trace ++ es ∧ t₁.responses = s₁.responses ++ rs ∧
      t₂.responses = s₂.responses ++ rs := by
  have hsame := sameCourse_latchRequest (a := a) (b := b) ho hpar hclk hcs htx hr
  have hcourse₁ := perform_course hp₁ ho h₁
  have hcourse₂ := perform_course hp₂ ho h₂
  exact ⟨_, _, hcourse₁.trace, hsame.events ▸ hcourse₂.trace, hcourse₁.responses,
    hsame.responses rfl hd ▸ hcourse₂.responses⟩

/-- A command-byte row has no place in `IDLE` (log 14). -/
theorem exec_wire_not_idle {i : Instr} {idx : Byte} (hi : i = .wireRReg idx ∨ i = .wireWReg idx)
    (hp : s.phase = .idle) (h : exec i s = .next t) : False := by
  have hne : s.phase ≠ .x0 := hp ▸ nofun
  obtain ⟨hread, hwrite⟩ := commandByteOutOfPlaceIsRefused s idx
  rcases hi with rfl | rfl
  · exact nomatch h.symm.trans (hread (.inl hne))
  · exact nomatch h.symm.trans (hwrite (.inl hne))

/-- Settles O54: the five operations take the same course, a second `INIT` changes nothing, and the command-byte rows
are refused. -/
theorem statelessBetweenOperations : Obligations.StatelessBetweenOperations := by
  intro s₁ s₂ t₁ t₂ i hp₁ hp₂ hpar hclk hcs htx hr hd h₁ h₂
  cases i with
  | init clk cs b =>
    have hs₁ := secondConstructionIsRefused s₁ clk cs b (hp₁ ▸ nofun)
    have hs₂ := secondConstructionIsRefused s₂ clk cs b (hp₂ ▸ nofun)
    obtain rfl := Host.Outcome.next.inj (hs₁.symm.trans h₁)
    obtain rfl := Host.Outcome.next.inj (hs₂.symm.trans h₂)
    exact ⟨[], [], by simp⟩
  | rd1 idx b => exact perform_stateless (op := .rd1) (by decide) hp₁ hp₂ hpar hclk hcs htx hr hd h₁ h₂
  | rdn idx len => exact perform_stateless (op := .rdn) (by decide) hp₁ hp₂ hpar hclk hcs htx hr hd h₁ h₂
  | cmd code b => exact perform_stateless (op := .cmd) (by decide) hp₁ hp₂ hpar hclk hcs htx hr hd h₁ h₂
  | wr1 idx val => exact perform_stateless (op := .wr1) (by decide) hp₁ hp₂ hpar hclk hcs htx hr hd h₁ h₂
  | wrn idx len => exact perform_stateless (op := .wrn) (by decide) hp₁ hp₂ hpar hclk hcs htx hr hd h₁ h₂
  | wireRReg idx => exact (exec_wire_not_idle (.inl rfl) hp₁ h₁).elim
  | wireWReg idx => exact (exec_wire_not_idle (.inr rfl) hp₁ h₁).elim

/-- Settles O55: one filler either way. -/
theorem readOfLengthOneIsSingleRead : Obligations.ReadOfLengthOneIsSingleRead := by
  intro s t u idx b hp ht hu
  have hsame : SameCourse (latchRequest .rd1 idx b 0 s) (latchRequest .rdn idx 1 0 s) :=
    ⟨rfl, rfl, rfl, rfl, rfl, by rw [payloads_rd1 rfl, payloads_rdn rfl]; rfl, rfl⟩
  have htrace := (perform_course (op := .rd1) hp (by decide) ht).trace
  have hutrace := (perform_course (op := .rdn) hp (by decide) hu).trace
  exact htrace.trans (hsame.events ▸ hutrace.symm)

/-- Settles O56: the first byte of `TXBUF` either way. -/
theorem writeOfLengthOneIsSingleWrite : Obligations.WriteOfLengthOneIsSingleWrite := by
  intro s t u idx hp ht hu
  have hsame : SameCourse (latchRequest .wr1 idx (s.txbuf.read 0) 0 s) (latchRequest .wrn idx 1 0 s) :=
    ⟨rfl, rfl, rfl, rfl, rfl, by rw [payloads_wr1 rfl, payloads_wrn rfl]; rfl, rfl⟩
  have htrace := (perform_course (op := .wr1) hp (by decide) ht).trace
  have hutrace := (perform_course (op := .wrn) hp (by decide) hu).trace
  exact htrace.trans (hsame.events ▸ hutrace.symm)

/-- Requests of one operation that take the same course lead to the same trace, responses, phase and replies; where one
is turned away, so is the other. -/
theorem perform_observables {op : Op} {a b c : Byte} (ho : op ≠ .init)
    (hsame : SameCourse (latchRequest op a b 0 s) (latchRequest op a c 0 s))
    (ht : perform op a b 0 s = .next t) (hu : perform op a c 0 s = .next u) :
    t.trace = u.trace ∧ t.responses = u.responses ∧ t.phase = u.phase ∧ t.replies = u.replies := by
  rcases perform_next ht with ⟨hacc, -⟩ | ⟨haway, rfl⟩
  · have hp := idle_of_accepted ho hacc
    obtain ⟨htrace, hresp, hphase, hrep⟩ := perform_course hp ho ht
    obtain ⟨htrace', hresp', hphase', hrep'⟩ := perform_course hp ho hu
    rw [htrace, hresp, hphase, hrep, htrace', hresp', hphase', hrep', hsame.events, hsame.phase, hsame.repliesLeft,
      hsame.responses rfl rfl]
    exact ⟨rfl, rfl, rfl, rfl⟩
  · obtain rfl := Host.Outcome.next.inj ((perform_turnedAway haway).symm.trans hu)
    exact ⟨rfl, rfl, rfl, rfl⟩

/-- Settles O57: neither the gate nor the frame of `RD1` and `CMD` reads `LEN`, nor `DAT` for `RD1`, and construction
reads neither. -/
theorem ignoredFieldHasNoEffect : Obligations.IgnoredFieldHasNoEffect := by
  rintro s t u i j a b c clk (⟨rfl, rfl⟩ | ⟨rfl, rfl⟩ | ⟨rfl, rfl⟩) ht hu
  · have hsame : SameCourse (latchRequest .rd1 a b 0 s) (latchRequest .rd1 a c 0 s) :=
      ⟨rfl, rfl, rfl, rfl, rfl, (payloads_rd1 rfl).trans (payloads_rd1 rfl).symm, rfl⟩
    exact perform_observables (by decide) hsame ht hu
  · have hsame : SameCourse (latchRequest .cmd a b 0 s) (latchRequest .cmd a c 0 s) :=
      ⟨rfl, rfl, rfl, rfl, rfl, (payloads_cmd rfl).trans (payloads_cmd rfl).symm, rfl⟩
    exact perform_observables (by decide) hsame ht hu
  · by_cases hp : s.phase = .uninit
    · obtain rfl := Host.Outcome.next.inj ((constructionCompletes s clk a b hp).symm.trans ht)
      obtain rfl := Host.Outcome.next.inj ((constructionCompletes s clk a c hp).symm.trans hu)
      exact ⟨rfl, rfl, rfl, rfl⟩
    · obtain rfl := Host.Outcome.next.inj ((secondConstructionIsRefused s clk a b hp).symm.trans ht)
      obtain rfl := Host.Outcome.next.inj ((secondConstructionIsRefused s clk a c hp).symm.trans hu)
      exact ⟨rfl, rfl, rfl, rfl⟩

end Sys2Proof.Machine
end
